-- ==== Sys2Proof/Word.lean ====
section
/-! DEFINITION. The bit-vector widths of R5 and the names of the six encoding formats of 30_encoding.md. -/

namespace Sys2Proof

/-- `DATA_W` (R5): one exchanged byte, one register value. -/
abbrev Byte := BitVec 8

/-- `ADDR_W` (R5): a peer register address, 0 to 63. -/
abbrev Addr := BitVec 6

/-- The formats of 30_encoding.md: a word has a meaning only together with the place it stands at
(R57, R58 item 2), so every word the model decodes carries its format. -/
inductive Format where
  | req17    -- the request word at the request port (R54)
  | shift8   -- the operand of the internal SHIFT (R56)
  | pulse1   -- the one-tick pulse on init_go (R57)
  | cmd8     -- the first byte of a frame (R49)
  | byte8    -- a dummy byte, in second or third place of a frame (R51, R52)
  | frame24  -- the three bytes of a frame, first bit leftmost (R53)
  deriving DecidableEq, Repr

/-- How many bits a word of each format has (R59: every encoding has one fixed length). -/
def Format.width : Format → Nat
  | .req17 => 17
  | .shift8 => 8
  | .pulse1 => 1
  | .cmd8 => 8
  | .byte8 => 8
  | .frame24 => 24

end Sys2Proof
end

