-- ==== Sys2Proof/Config.lean ====
section
/-! DEFINITION. What is fixed for one build of the block (R6), the inputs the environment drives (R24 to R28), and the free
values: constants with no body, so that nothing can be proved of their values. -/

namespace Sys2Proof

/-- `P_REQUESTER` (R6): who drives the request port. -/
inductive Requester where
  | sequencer  -- the Initialization Sequencer (43_init_sequencer.md)
  | host       -- an external requester
  deriving DecidableEq, Repr, Inhabited

/-- The parameters the source leaves open (R6), each "a named argument of the model". -/
structure Params where
  cpol : Bool           -- P_CPOL, the idle level of sclk
  cpha : Bool           -- P_CPHA, false: sample on a pulse's first edge, true: on its second
  csActiveLevel : Bool  -- P_CS_ACTIVE_LEVEL
  csSetup : Nat         -- P_CS_SETUP
  csHold : Nat          -- P_CS_HOLD
  csIdle : Nat          -- P_CS_IDLE
  settleDelay : Nat     -- P_SETTLE_DELAY
  requester : Requester -- P_REQUESTER
  deriving DecidableEq, Repr, Inhabited

/-- The vector values of R6 (95_test_vectors.md). No vector value is given for P_CS_ACTIVE_LEVEL ("none needed"). -/
def Params.vector (r : Requester) : Params :=
  { cpol := false, cpha := false, csActiveLevel := false, csSetup := 1, csHold := 1, csIdle := 1,
    settleDelay := 4, requester := r }

/-- The 17 bits `{req_dir, req_addr, req_wdata}` of the request port (R26, R54). -/
structure Request where
  dir : Bool    -- req_dir: false write, true read
  addr : Byte   -- req_addr, the requester's whole address byte
  wdata : Byte  -- req_wdata
  deriving DecidableEq, Repr, Inhabited

/-- The inputs of one tick, each sampled once per tick (R9, R24 to R28). -/
structure Inputs where
  rst : Bool         -- synchronous reset (R28)
  edgeTick : Bool    -- the edge strobe (R24)
  sdi : Bool         -- the level a peer drives; a draw (R25)
  reqValid : Bool    -- req_valid (R26)
  req : Request      -- req_dir, req_addr, req_wdata (R26)
  pinsReady : Bool   -- pins_ready (R27)
  initGo : Bool      -- init_go (R27)
  takeRdata : Bool   -- the requester reads `rdata` as a result in this tick (R98)
  deriving DecidableEq, Repr, Inhabited

/-- No input active: no reset, no strobe, nothing requested. -/
def Inputs.quiet : Inputs :=
  { rst := false, edgeTick := false, sdi := false, reqValid := false,
    req := { dir := false, addr := 0, wdata := 0 }, pinsReady := false, initGo := false, takeRdata := false }

/-- The registers whose reset value is unspecified: "a draw at reset" (R107). -/
structure ResetDraw where
  dir : Bool
  addr : Addr
  wdata : Byte
  idx : BitVec 2
  rdata : Byte
  sr : Byte
  rxbit : Bool
  sdo : Bool
  deriving DecidableEq, Repr, Inhabited

/-- Free value (log 1): the build's parameters. -/
opaque Config.params : Params

/-- Free value (log 2): the unspecified registers after the reset that ends at tick `t`. -/
opaque Config.resetDraw (t : Nat) : ResetDraw

/-- Free value (log 4): the inputs of tick `t`, where no schedule is given. The model takes them "at every tick as an
argument, under no law" (R24). -/
opaque Config.drawInputs (t : Nat) : Inputs

end Sys2Proof
end

