-- ==== Sys2Proof/Syntax.lean ====
section
/-! DEFINITION. The instructions: one constructor per row of spec/opcode_table.json. -/

namespace Sys2Proof

/-- The block's operations (R2) and the wire patterns of the opcode map (R57).
Each field is exactly as wide as the field of the encoding it stands for. -/
inductive Instr where
  /-- WRITE_REG (R78): the requester's whole address byte (bits 7:6 are kept here, the block masks them) and payload. -/
  | writeReg (addr : Byte) (wdata : Byte)
  /-- READ_REG (R79): the address byte; `wdata` is the payload field, latched and ignored (R72). -/
  | readReg (addr : Byte) (wdata : Byte)
  /-- SHIFT (R61): one byte exchange, `tx` the byte sent. -/
  | shift (tx : Byte)
  /-- INIT (R86): a tick with `init_go = 1`. -/
  | init
  /-- CMD_WRITE (R49, R50): the command byte `00aaaaaa`. -/
  | cmdWrite (addr : Addr)
  /-- CMD_READ (R49, R50): the command byte `10aaaaaa`. -/
  | cmdRead (addr : Addr)
  /-- CMD_WRITE_AI (R58): the reserved command byte `01aaaaaa`. -/
  | cmdWriteAi (addr : Addr)
  /-- CMD_READ_AI (R58): the reserved command byte `11aaaaaa`. -/
  | cmdReadAi (addr : Addr)
  /-- DUMMY (R51): the byte `0xFF` in second place, and in third place of a read frame. -/
  | dummy
  /-- WRITE_FRAME (R53): `00aaaaaa 11111111 vvvvvvvv`. -/
  | writeFrame (addr : Addr) (wdata : Byte)
  /-- READ_FRAME (R53): `10aaaaaa 11111111 11111111`. -/
  | readFrame (addr : Addr)
  deriving DecidableEq, Repr

end Sys2Proof
end

