-- ==== Sys2Proof/WellFormed.lean ====
section
/-! DEFINITION. Which instructions are well formed: all but the two reserved command bytes (R58). -/

namespace Sys2Proof

/-- The check: the field widths are in the types, so what is left to check is R58 item 1, the command bytes with
bit 6 = 1, which are reserved. Every request word is legal (R55). -/
def Instr.wf : Instr → Bool
  | .writeReg _ _ => true
  | .readReg _ _ => true
  | .shift _ => true
  | .init => true
  | .cmdWrite _ => true
  | .cmdRead _ => true
  | .cmdWriteAi _ => false
  | .cmdReadAi _ => false
  | .dummy => true
  | .writeFrame _ _ => true
  | .readFrame _ => true

end Sys2Proof
end

