-- ==== Sys2Proof/Decode.lean ====
section
/-! DEFINITION. The decoder, total on any format and any word and rejecting by name; after it the encoder, written
from the same tables (30_encoding.md, opcode_table.json); then the two entry points the host uses. -/

namespace Sys2Proof

/-- Why a word is no instruction of its format. -/
inductive DecodeError where
  | tooWide        -- the word has a bit above the format's width (R59)
  | noPulse        -- `init_go = 0` is no INIT (R57)
  | notDummy       -- a byte in dummy position that is not 0xFF (R51; log 24)
  | reservedFrame  -- a frame whose command byte has bit 6 = 1 (R58)
  | notFrame       -- 24 bits that are neither a write nor a read frame (R53)
  deriving DecidableEq, Repr

/-- R54, R55: bit 16 selects the operation; all 2^17 words are legal. -/
def decodeReq17 (w : BitVec 17) : Instr :=
  if w.getLsbD 16 then .readReg (w.extractLsb' 8 8) (w.extractLsb' 0 8)
  else .writeReg (w.extractLsb' 8 8) (w.extractLsb' 0 8)

/-- R49, R57: bits 7:6 select among the four command bytes. -/
def decodeCmd8 (w : Byte) : Instr :=
  match w.getLsbD 7, w.getLsbD 6 with
  | false, false => .cmdWrite (w.extractLsb' 0 6)
  | true, false => .cmdRead (w.extractLsb' 0 6)
  | false, true => .cmdWriteAi (w.extractLsb' 0 6)
  | true, true => .cmdReadAi (w.extractLsb' 0 6)

/-- R53: the two frame patterns; what is neither is rejected. -/
def decodeFrame24 (w : BitVec 24) : Except DecodeError Instr :=
  if w.getLsbD 22 then .error .reservedFrame
  else if w.extractLsb' 8 8 ≠ 0xFF#8 then .error .notFrame
  else if w.getLsbD 23 then
    if w.extractLsb' 0 8 = 0xFF#8 then .ok (.readFrame (w.extractLsb' 16 6)) else .error .notFrame
  else .ok (.writeFrame (w.extractLsb' 16 6) (w.extractLsb' 0 8))

/-- The decoder of one word of one format (R57). -/
def decode (f : Format) (w : Nat) : Except DecodeError Instr :=
  if 2 ^ f.width ≤ w then .error .tooWide
  else match f with
    | .req17 => .ok (decodeReq17 (BitVec.ofNat 17 w))
    | .shift8 => .ok (.shift (BitVec.ofNat 8 w))
    | .pulse1 => if w = 1 then .ok .init else .error .noPulse
    | .cmd8 => .ok (decodeCmd8 (BitVec.ofNat 8 w))
    | .byte8 => if w = 0xFF then .ok .dummy else .error .notDummy
    | .frame24 => decodeFrame24 (BitVec.ofNat 24 w)

/-- The format an instruction is written in (the table's "format" column). -/
def Instr.format : Instr → Format
  | .writeReg _ _ => .req17
  | .readReg _ _ => .req17
  | .shift _ => .shift8
  | .init => .pulse1
  | .cmdWrite _ => .cmd8
  | .cmdRead _ => .cmd8
  | .cmdWriteAi _ => .cmd8
  | .cmdReadAi _ => .cmd8
  | .dummy => .byte8
  | .writeFrame _ _ => .frame24
  | .readFrame _ => .frame24

/-- The word of an instruction in its format, field by field from the table's "encoding" column. -/
def encode : Instr → Nat
  | .writeReg a v => (0b0#1 ++ a ++ v).toNat
  | .readReg a v => (0b1#1 ++ a ++ v).toNat
  | .shift tx => tx.toNat
  | .init => 1
  | .cmdWrite a => (0b00#2 ++ a).toNat
  | .cmdRead a => (0b10#2 ++ a).toNat
  | .cmdWriteAi a => (0b01#2 ++ a).toNat
  | .cmdReadAi a => (0b11#2 ++ a).toNat
  | .dummy => 0xFF
  | .writeFrame a v => (0b00#2 ++ a ++ 0xFF#8 ++ v).toNat
  | .readFrame a => (0b10#2 ++ a ++ 0xFF#8 ++ 0xFF#8).toNat

/-- DESIGN CHOICE (log 3): which format a bare table word is read in. The table gives several rows the same number of
bits, and the spec tells them apart by the place the word stands at (R58 item 2), which a bare word has not. 8 bits: `1` is
the INIT pulse, `0xFF` the dummy byte, any other a command byte; 24 bits: a frame pattern if it fits one, else a request
word; `nbits` 0 is the row that fixes no bit (SHIFT). -/
def tableFormat (nbits w : Nat) : Option Format :=
  match nbits with
  | 0 => some .shift8
  | 1 => some .pulse1
  | 8 => if w = 1 then some .pulse1 else if w = 0xFF then some .byte8 else some .cmd8
  | 17 => some .req17
  | 24 => match decode .frame24 w with
    | .ok _ => some .frame24
    | .error _ => some .req17
  | _ => none

/-- What this decoder reads from a table row's word (fixed name, read by the host). -/
def decodeTableWord (nbits w : Nat) : Option Instr :=
  match tableFormat nbits w with
  | none => none
  | some f => match decode f w with
    | .ok i => some i
    | .error _ => none

end Sys2Proof
end

