-- ==== Sys2Proof/Machine/State.lean ====
section
/-! DEFINITION. The state: every register of 10_state.md, the lines, and beside them the agents outside the block
(inputs, requester, peer) and the bus trace, each marked as such; the faults and refusals; the state after reset. -/

namespace Sys2Proof.Machine

/-- `t_state` (R12). -/
inductive TState where
  | idle   -- no transaction; a request can be accepted
  | setup  -- chip-select asserted, the first exchange not started
  | xfer   -- one of the three exchanges runs or has just completed
  | hold   -- all three exchanges complete, chip-select still asserted
  | gap    -- chip-select deasserted, not yet ready
  deriving DecidableEq, Repr

/-- `q_state` (R29, R85). -/
inductive QState where
  | unconfigured
  | configuring
  | parked
  deriving DecidableEq, Repr

/-- The Register Transport's registers (R12 to R18). DEDUCED (log 17): counters the spec calls "wide enough" are `Nat`. -/
structure Transport where
  state : TState       -- t_state (R12)
  dir : Bool           -- t_dir (R13): false write, true read
  addr : Addr          -- t_addr (R13), already masked to 6 bits
  wdata : Byte         -- t_wdata (R13)
  idx : BitVec 2       -- t_idx (R14)
  wait : Nat           -- t_wait (R15), as wide as its parameters need
  csAsserted : Bool    -- cs_asserted (R16)
  rdata : Byte         -- rdata (R17)
  rdataValid : Bool    -- rdata_valid (R17)
  done : Bool          -- done (R18)
  deriving DecidableEq, Repr

/-- The Byte Shifter's registers and output lines (R19 to R23). -/
structure Shifter where
  sr : Byte            -- sh_sr (R19)
  cnt : BitVec 4       -- sh_cnt (R20)
  ovf : Bool           -- sh_ovf (R20)
  run : Bool           -- sh_run (R21)
  rxbit : Bool         -- sh_rxbit (R21)
  sclk : Bool          -- sclk (R22)
  sdo : Bool           -- sdo (R23)
  deriving DecidableEq, Repr

/-- The Initialization Sequencer's registers (R29). -/
structure Sequencer where
  state : QState       -- q_state
  armed : Bool         -- q_armed
  settle : Nat         -- q_settle, as wide as P_SETTLE_DELAY needs
  step : Bool          -- q_step: false the first write, true the second
  issued : Bool        -- q_issued
  deriving DecidableEq, Repr

/-- The peer's register space (R33): address and byte, in the canonical form of `Memory.wf`. -/
abbrev Memory := List Host.Cell

/-- The reference peer of R48, a fixture outside the block. -/
structure RefPeer where
  mem : Memory         -- P[0..63]
  n : Nat              -- the byte count in the current frame
  dir : Bool
  ai : Bool
  a : Addr
  acc : Byte           -- the bits of the current byte received so far
  bits : BitVec 3      -- how many bits of the current byte have been received
  deriving DecidableEq, Repr

/-- What drives `sdi`: nothing is known of the peer (each sample is the draw on the pin, R25, R43), the loopback
harness (R69), or the reference peer (R48). -/
inductive Attached where
  | draws
  | loopback
  | reference
  deriving DecidableEq, Repr

/-- The events of the bus trace (R8). -/
inductive BusEvent where
  | csAssert
  | csDeassert
  | edge (k : BitVec 4) (sclk sdo : Bool)
  | sampled (k : BitVec 4) (bit : Bool)
  deriving DecidableEq, Repr

/-- One statement of a requester program (R60). `IDLE n` is `n` times `idle`. -/
inductive Stmt where
  | wr (addr value : Byte)
  | rd (addr : Byte)
  | init
  | idle
  deriving DecidableEq, Repr

/-- The machine. The first group is "the whole state of the block" (R11) and its parameters; the other fields are the
environment's and the model's own (log 5). -/
structure State where
  par : Params                     -- the build-time parameters (R6); no step changes them
  tr : Transport
  sh : Shifter
  sq : Sequencer
  inp : Inputs                     -- the inputs sampled in the coming tick (R9)
  pinsSeen : Bool                  -- pins_ready has been 1 since the last reset (R112)
  now : Nat                        -- the tick's number (R9); also the index of the next draw
  env : List Inputs                -- the inputs of the ticks after the coming one, as far as they are given
  attached : Attached
  peer : RefPeer
  trace : List BusEvent            -- the bus trace, oldest first: "an observation of the model" (R8)
  prog : List Stmt                 -- what is left of the requester's program (R60)
  awaiting : Bool                  -- the program's WR or RD was accepted and its done = 1 is not yet seen (R60)
  results : List Byte              -- the results the requester has taken, oldest first (R60, R98)
  slot : Option (Format × Nat)     -- a word placed from outside for the next step (log 6)
  deriving DecidableEq, Repr

/-- Why a run stops: the model faults of R97 ("not behaviours of the hardware"), and the one case the reference peer
leaves undefined. Each is safe: it makes claims unprovable. -/
inductive Fault where
  /-- The requester reads `rdata` as a result while `rdata_valid = 0`: "a model fault" (R17, R97, R98, U8, vector E6).
  Raised by a tick. Safe. -/
  | rdataUnwritten
  /-- `pins_ready` goes from 1 to 0 without a reset between (R97, R112). Raised by a tick. Safe. -/
  | pinsReadyDropped
  /-- `ShStart` with pre-tick `sh_run = 1` (R62, R97). Raised by SHIFT and the command and dummy bytes, before any other
  test (log 9). Safe. -/
  | shifterBusy
  /-- An invariant of R32 fails in the pre-tick state (R97). Raised by a tick. Safe. -/
  | invariantBroken
  /-- A fourth byte, or a command with `ai = 1`, reaches the reference peer: "undefined for the reference peer" (R48).
  Raised by a tick, only with the reference peer attached. Safe. -/
  | peerUndefined
  deriving DecidableEq, Repr

/-- Why an instruction has no meaning where it stands. -/
inductive Refusal where
  /-- An arm of `exec` with no meaning yet. Raised by no arm of this model. Safe. -/
  | notModelled (mnemonic : String)
  /-- A command byte with bit 6 = 1: reserved, "a model of the block needs no behaviour for them" (R58).
  Raised by CMD_WRITE_AI and CMD_READ_AI on every path. Safe. -/
  | reservedCommand
  /-- The byte is not the one the transport gives to the shifter in this tick: "only the transport's frame sequencing
  starts it" (R56), "no other byte is ever given to ShStart" (R71). Raised by SHIFT and the command and dummy bytes. Safe. -/
  | notIssued
  /-- A word placed in the slot is no word of its format. Raised by a step. Safe. -/
  | undecodable (why : DecodeError)
  deriving DecidableEq, Repr

/-- The transport's part of the table of R107. -/
def Transport.afterReset (d : ResetDraw) : Transport :=
  { state := .idle, dir := d.dir, addr := d.addr, wdata := d.wdata, idx := d.idx, wait := 0, csAsserted := false,
    rdata := d.rdata, rdataValid := false, done := false }

/-- The shifter's part of the table of R107. -/
def Shifter.afterReset (p : Params) (d : ResetDraw) : Shifter :=
  { sr := d.sr, cnt := 0, ovf := false, run := false, rxbit := d.rxbit, sclk := p.cpol, sdo := d.sdo }

/-- The sequencer's part of the table of R107. -/
def Sequencer.afterReset : Sequencer :=
  { state := .unconfigured, armed := false, settle := 0, step := false, issued := false }

/-- DESIGN CHOICE (log 7): the reference peer before anything reached it, `P[0..63] = 0x00` as the vectors have it. -/
def RefPeer.fresh : RefPeer :=
  { mem := [], n := 0, dir := false, ai := false, a := 0, acc := 0, bits := 0 }

/-- The launch state (R108) of a build `p`, with the unspecified registers `d` and the first tick's inputs `i`. -/
def State.launch (p : Params) (d : ResetDraw) (i : Inputs) : State :=
  { par := p, tr := Transport.afterReset d, sh := Shifter.afterReset p d, sq := Sequencer.afterReset,
    inp := i, pinsSeen := false, now := 0, env := [], attached := .draws, peer := RefPeer.fresh,
    trace := [], prog := [], awaiting := false, results := [], slot := none }

/-- The state after reset: the table of R107, "with every unspecified register a draw" (R108). -/
def State.reset : State := State.launch Config.params (Config.resetDraw 0) (Config.drawInputs 0)

end Sys2Proof.Machine
end

