-- ==== Sys2Proof/Machine/Operands.lean ====
section
/-! DEFINITION. Operand forms: bit helpers (R7), address masking, the request port, the frame bytes F(0) to F(2). -/

namespace Sys2Proof.Machine

/-- `b[6:0] : x` (R7): the shift register moves up by one, `x` enters at bit 0. -/
def shiftIn (b : Byte) (x : Bool) : Byte := b.extractLsb' 0 7 ++ BitVec.ofBool x

/-- `req_addr[5:0]`, which is `req_addr & 0x3F` (R38, R50, R72). -/
def maskAddr (a : Byte) : Addr := a.extractLsb' 0 6

/-- The command byte `t_dir : 0b0 : t_addr` (R50). -/
def commandByte (dir : Bool) (addr : Addr) : Byte := BitVec.ofBool dir ++ 0b0#1 ++ addr

/-- The dummy byte (R51). -/
def dummyByte : Byte := 0xFF#8

/-- F(i), the byte of exchange `i` (R71). Value 3 is never reached (R14); DEDUCED (log 21): it is read as 2. -/
def frameByte (t : Transport) (i : BitVec 2) : Byte :=
  if i = 0 then commandByte t.dir t.addr
  else if i = 1 then dummyByte
  else if t.dir then dummyByte else t.wdata

/-- The two configuration writes, hardwired (R88, R89). -/
def sequencerRequest (q : Sequencer) : Request :=
  if q.step then { dir := false, addr := 0x02#8, wdata := 0x02#8 }
  else { dir := false, addr := 0x03#8, wdata := 0x14#8 }

/-- `req_valid` at the port: a pin with `P_REQUESTER = HOST`, the sequencer's with `SEQUENCER` (R30, R89). -/
def portValid (s : State) : Bool :=
  match s.par.requester with
  | .host => s.inp.reqValid
  | .sequencer => decide (s.sq.state = .configuring) && !s.sq.issued

/-- The request word at the port, by the same selection. -/
def portRequest (s : State) : Request :=
  match s.par.requester with
  | .host => s.inp.req
  | .sequencer => sequencerRequest s.sq

/-- The handshake of R72: `req_valid = 1` in a tick whose pre-state is `IDLE`. -/
def accepting (s : State) : Bool := decide (s.tr.state = .idle) && portValid s

/-- The 17-bit word of a request (R54). -/
def requestWord (r : Request) : BitVec 17 := BitVec.ofBool r.dir ++ r.addr ++ r.wdata

/-- The requester puts a request on its pins (R60). With `P_REQUESTER = SEQUENCER` the block has no such pins (R30; DEDUCED,
log 20). -/
def present (r : Request) (s : State) : State :=
  { s with inp := { s.inp with reqValid := true, req := r } }

/-- The byte the transport gives to `ShStart` in this tick, if it starts an exchange (R73, R74). -/
def startByte (s : State) : Option Byte :=
  match s.tr.state with
  | .setup => if s.tr.wait = 0 then some (frameByte s.tr 0) else none
  | .xfer => if s.sh.ovf && decide (s.tr.idx < 2) then some (frameByte s.tr (s.tr.idx + 1)) else none
  | .idle => none
  | .hold => none
  | .gap => none

end Sys2Proof.Machine
end

