-- ==== Sys2Proof/Machine/Flags.lean ====
section
/-! DEFINITION. Status: the outputs of R30, the completion conditions, and the invariants of R32 as one check. -/

namespace Sys2Proof.Machine

/-- `req_ready` (R30). -/
def reqReady (s : State) : Bool := decide (s.tr.state = .idle)

/-- `busy` (R30). -/
def busy (s : State) : Bool := decide (s.tr.state ≠ .idle)

/-- `cs_pin` (R16). -/
def csPin (s : State) : Bool := if s.tr.csAsserted then s.par.csActiveLevel else !s.par.csActiveLevel

/-- `sleep_req` (R30, R92): constantly 0 with `P_REQUESTER = HOST` (43_init_sequencer.md, introduction;
DEDUCED, log 18). -/
def sleepReq (s : State) : Bool :=
  decide (s.par.requester = .sequencer) && decide (s.sq.state = .parked)

/-- The outputs of R30 that are not registers of their own. -/
structure Outputs where
  reqReady : Bool
  busy : Bool
  done : Bool
  rdata : Byte
  rdataValid : Bool
  csPin : Bool
  sclk : Bool
  sdo : Bool
  sleepReq : Bool
  deriving DecidableEq, Repr

/-- What the requester and the bus see of a state (R30). -/
def outputs (s : State) : Outputs :=
  { reqReady := Machine.reqReady s, busy := Machine.busy s, done := s.tr.done, rdata := s.tr.rdata,
    rdataValid := s.tr.rdataValid, csPin := Machine.csPin s, sclk := s.sh.sclk, sdo := s.sh.sdo,
    sleepReq := Machine.sleepReq s }

/-- The acknowledge of R74: in `XFER` with `sh_ovf = 1` (R67). -/
def acknowledging (s : State) : Bool := decide (s.tr.state = .xfer) && s.sh.ovf

/-- One clock edge happens in this tick (R63; the reset of R28 is tested before). -/
def edgeFires (s : State) : Bool := s.inp.edgeTick && s.sh.run

/-- Edge `k` is the sampling edge of its pulse (R64). -/
def samplingEdge (cpha : Bool) (k : BitVec 4) : Bool := k.getLsbD 0 == cpha

/-- Chip-select falls in this tick (R75). -/
def deasserting (s : State) : Bool := decide (s.tr.state = .hold) && decide (s.tr.wait = 0)

/-- The states in which chip-select is asserted (R12, R32 item 1). -/
def selecting : TState → Bool
  | .idle => false
  | .setup => true
  | .xfer => true
  | .hold => true
  | .gap => false

/-- R32 item 1. -/
def invSelect (s : State) : Bool := s.tr.csAsserted == selecting s.tr.state
/-- R32 item 2. -/
def invRun (s : State) : Bool := !s.sh.run || decide (s.tr.state = .xfer)
/-- R32 item 3. -/
def invOvf (s : State) : Bool := !s.sh.ovf || (!s.sh.run && decide (s.tr.state = .xfer))
/-- R32 item 4. -/
def invClock (s : State) : Bool := s.sh.sclk == (s.par.cpol ^^ s.sh.cnt.getLsbD 0)
/-- R32 item 5. -/
def invCount (s : State) : Bool := s.sh.run || decide (s.sh.cnt = 0)
/-- R32 item 6. -/
def invIndex (s : State) : Bool := decide (s.tr.state = .idle) || decide (s.tr.idx ≤ 2)
/-- R32 item 7. -/
def invIssued (s : State) : Bool := !s.sq.issued || decide (s.sq.state = .configuring)

/-- The seven invariants of R32. -/
def invariants (s : State) : Bool :=
  invSelect s && invRun s && invOvf s && invClock s && invCount s && invIndex s && invIssued s

/-- A host's program is blocked in a `WR` or `RD`: "wait until `done = 1`" (R60). DEDUCED (log 22): a reset gives no `done`
(R107), so one that abandons the transaction leaves the program blocked, as R96 has it of a transaction that never ends. -/
def blocked (s : State) : Bool := decide (s.par.requester = .host) && s.awaiting

/-- A host's program starts no statement: it is blocked, or a transaction is on the bus or its `done = 1` is seen in this
tick (R60; DESIGN CHOICE, log 13). With the sequencer as the requester, a program (`INIT`, `IDLE n`) waits for nothing. -/
def waiting (s : State) : Bool :=
  blocked s || (decide (s.par.requester = .host) && (s.tr.csAsserted || s.tr.done))

/-- The requester takes a result in this tick: where it says so, and where a read's `done = 1` is seen; only with
`rdata_valid = 1` (R60, R98; DEDUCED, log 14). -/
def takesResult (s : State) : Bool :=
  s.tr.rdataValid && (s.inp.takeRdata || (decide (s.par.requester = .host) && s.tr.done && s.tr.dir))

/-- The results after this tick: "`x <- rdata`" (R60). -/
def resultsNext (s : State) : List Byte :=
  if takesResult s then s.results ++ [s.tr.rdata] else s.results

/-- What is left of the wait after this tick: it ends where `done = 1` is seen (R60). -/
def awaitingNext (s : State) : Bool := s.awaiting && !s.tr.done

end Sys2Proof.Machine
end

