-- ==== Sys2Proof/Machine/Ops.lean ====
section
/-! DEFINITION. The named operations over the peer's register space and over the registers: `ShStart`, one clock edge,
reset, the passing of a tick. The block takes no exception and returns from none (R95, R101), so no such operation stands
here: what stops a run is a model fault (R97). -/

namespace Sys2Proof.Machine

/-- One register of the peer's space; an address not listed reads 0x00 (log 7). -/
def Memory.read : Memory → Nat → Byte
  | [], _ => 0
  | (k, b) :: rest, a => if k = a then b else Memory.read rest a

/-- Takes an address out of the list. -/
def Memory.erase : Memory → Nat → Memory
  | [], _ => []
  | (k, b) :: rest, a => if k = a then rest else (k, b) :: Memory.erase rest a

/-- Puts a cell in its place by address, over one of the same address. -/
def Memory.insert : Memory → Nat → Byte → Memory
  | [], a, v => [(a, v)]
  | (k, b) :: rest, a, v =>
    if a < k then (a, v) :: (k, b) :: rest
    else if a = k then (a, v) :: rest
    else (k, b) :: Memory.insert rest a v

/-- Writes one register; writing what an unlisted address reads takes the entry out. -/
def Memory.write (m : Memory) (a : Nat) (v : Byte) : Memory :=
  if v = 0 then Memory.erase m a else Memory.insert m a v

/-- The canonical form: addresses 0 to 63 (R33) strictly rising, no entry equal to what an unlisted address reads. -/
def Memory.wf : Memory → Bool
  | [] => true
  | (k, b) :: rest => decide (k < 64) && decide (b ≠ 0) && rest.all (fun c => decide (k < c.1)) && Memory.wf rest

/-- `ShStart(b)` (R62). -/
def shStart (p : Params) (h : Shifter) (b : Byte) : Shifter :=
  { h with sr := b, cnt := 0, ovf := false, run := true, sdo := if p.cpha then h.sdo else b.getLsbD 7 }

/-- What sampling and shifting do on edge `h.cnt` (R64, R65); `bit` is `Sample()`. -/
def shiftEdge (cpha : Bool) (h : Shifter) (bit : Bool) : Shifter :=
  match cpha, h.cnt.getLsbD 0 with
  | false, false => { h with rxbit := bit }
  | false, true => { h with sr := shiftIn h.sr h.rxbit, sdo := if h.cnt = 15 then h.sdo else h.sr.getLsbD 6 }
  | true, false => { h with sdo := h.sr.getLsbD 7 }
  | true, true => { h with sr := shiftIn h.sr bit }

/-- The clock, counter and flags of one edge (R63): the 16th edge wraps the counter and sets `sh_ovf`. -/
def countEdge (h : Shifter) : Shifter :=
  { h with sclk := !h.sclk, cnt := h.cnt + 1, run := decide (h.cnt ≠ 15), ovf := decide (h.cnt = 15) || h.ovf }

/-- One clock edge (R63, R64, R65). -/
def shEdge (p : Params) (h : Shifter) (bit : Bool) : Shifter := countEdge (shiftEdge p.cpha h bit)

/-- The inputs of the tick after this one: as scheduled, else free (R24). -/
def nextInputs (s : State) : Inputs :=
  match s.env with
  | i :: _ => i
  | [] => Config.drawInputs (s.now + 1)

/-- Time goes on by one tick (R9): the tick number, the inputs and the schedule. -/
def elapse (s : State) : State :=
  { s with now := s.now + 1, inp := nextInputs s, env := s.env.tail }

/-- The tick with `rst = 1` (R28, R107): every register of the block to its reset value, the unspecified ones drawn anew,
chip-select deasserted on the trace if it was asserted. The peer is not reset (95_test_vectors.md, conventions). DESIGN CHOICE
(log 12): `pinsSeen` is cleared too, even where `pins_ready = 1` in this very tick. DESIGN CHOICE (log 14): the requester,
which is outside the block, sees a `done = 1` and takes a valid result in this tick as in any other. -/
def resetTick (s : State) : State :=
  { elapse s with
    tr := Transport.afterReset (Config.resetDraw (s.now + 1))
    sh := Shifter.afterReset s.par (Config.resetDraw (s.now + 1))
    sq := Sequencer.afterReset
    pinsSeen := false
    awaiting := awaitingNext s
    results := resultsNext s
    trace := s.trace ++ (if s.tr.csAsserted then [BusEvent.csDeassert] else []) }

end Sys2Proof.Machine
end

