-- ==== Sys2Proof/Machine/Peer.lean ====
section
/-! DEFINITION. What drives `sdi`: the draw, the loopback harness (R69), the reference peer (R48). -/

namespace Sys2Proof.Machine

/-- The level the reference peer drives at the coming sampling edge: bit `7 - j` of `out_n`. `out_2 = P[a]` in a read
frame; every other `out` is a draw (R48). -/
def peerOut (p : RefPeer) (draw : Bool) : Bool :=
  if p.n = 2 && p.dir then (Memory.read p.mem p.a.toNat).getLsbD (7 - p.bits.toNat) else draw

/-- `Sample()` (R8): the level of `sdi` in the current tick. In loopback it is `sdo`, which no sampling edge changes
(DEDUCED, log 16). DESIGN CHOICE (log 23): the reference peer drives
its line whatever `pins_ready` is. -/
def sample (s : State) : Bool :=
  match s.attached with
  | .draws => s.inp.sdi
  | .loopback => s.sh.sdo
  | .reference => peerOut s.peer s.inp.sdi

/-- The reference peer has received byte `b`, its `n`-th of the frame (R48). -/
def peerByte (p : RefPeer) (b : Byte) : RefPeer :=
  if p.n = 0 then
    { p with dir := b.getLsbD 7, ai := b.getLsbD 6, a := b.extractLsb' 0 6, n := 1 }
  else if p.n = 2 && !p.dir then { p with mem := Memory.write p.mem p.a.toNat b, n := 3 }
  else { p with n := p.n + 1 }

/-- The reference peer reads one bit of `sdo` (R48); the eighth completes a byte (DEDUCED, log 15). -/
def peerBit (p : RefPeer) (bit : Bool) : RefPeer :=
  if p.bits = 7 then peerByte { p with acc := shiftIn p.acc bit, bits := 0 } (shiftIn p.acc bit)
  else { p with acc := shiftIn p.acc bit, bits := p.bits + 1 }

/-- `CsAssert` at the reference peer: `n <- 0` (R48), and a byte begins. -/
def peerSelect (p : RefPeer) : RefPeer := { p with n := 0, acc := 0, bits := 0 }

/-- A sampling edge happens in this tick (R63, R64). -/
def sampling (s : State) : Bool := edgeFires s && samplingEdge s.par.cpha s.sh.cnt

/-- The reference peer's part of one tick; without it attached its state stands still. DESIGN CHOICE (log 23): it listens
whatever `pins_ready` is. -/
def peerNext (s : State) : RefPeer :=
  match s.attached with
  | .reference =>
    if accepting s then peerSelect s.peer
    else if sampling s then peerBit s.peer s.sh.sdo
    else s.peer
  | .draws => s.peer
  | .loopback => s.peer

/-- "A byte with `n ≥ 3`, or a command with `ai = 1`: undefined for the reference peer" (R48; DEDUCED, log 15:
a fault). -/
def peerUndefined (s : State) : Bool :=
  decide (s.attached = .reference) && sampling s && decide (s.peer.bits = 7) &&
    (if s.peer.n = 0 then (shiftIn s.peer.acc s.sh.sdo).getLsbD 6 else s.peer.ai || decide (3 ≤ s.peer.n))

end Sys2Proof.Machine
end

