-- ==== Sys2Proof/Machine/Tick.lean ====
section
/-! DEFINITION. One tick of the block (R9): each part's next registers are computed from the pre-tick state alone, and all
of them land together. Then the requester's program (R60), and running on through the given schedule. -/

namespace Sys2Proof.Machine

/-- `IDLE`: accept a request, or nothing (R72). -/
def transportIdle (s : State) : Transport :=
  if portValid s then
    { s.tr with
      dir := (portRequest s).dir, addr := maskAddr (portRequest s).addr, wdata := (portRequest s).wdata,
      idx := 0, csAsserted := true, wait := s.par.csSetup, state := .setup, done := false }
  else { s.tr with done := false }

/-- `SETUP`: wait, then start the first exchange (R73; the shifter's side is `shifterNext`). -/
def transportSetup (s : State) : Transport :=
  if 0 < s.tr.wait then { s.tr with wait := s.tr.wait - 1, done := false }
  else { s.tr with state := .xfer, done := false }

/-- The payload of a read is kept when its third exchange is acknowledged; every other received byte is discarded (R74). -/
def keepPayload (s : State) : Transport :=
  if s.tr.idx = 2 && s.tr.dir then { s.tr with rdata := s.sh.sr, rdataValid := true } else s.tr

/-- `XFER`: wait for `sh_ovf`, acknowledge, go to the next exchange or to `HOLD` (R74). -/
def transportXfer (s : State) : Transport :=
  if s.sh.ovf then
    if s.tr.idx < 2 then { keepPayload s with idx := s.tr.idx + 1, done := false }
    else { keepPayload s with wait := s.par.csHold, state := .hold, done := false }
  else { s.tr with done := false }

/-- `HOLD`: wait, then deassert chip-select and pulse `done` (R75). -/
def transportHold (s : State) : Transport :=
  if 0 < s.tr.wait then { s.tr with wait := s.tr.wait - 1, done := false }
  else { s.tr with csAsserted := false, done := true, wait := s.par.csIdle, state := .gap }

/-- `GAP`: at least one tick deasserted before the next request (R76). -/
def transportGap (s : State) : Transport :=
  if 0 < s.tr.wait then { s.tr with wait := s.tr.wait - 1, done := false }
  else { s.tr with state := .idle, done := false }

/-- The transport's registers after a tick: one rule per state (R31, R72 to R76). -/
def transportNext (s : State) : Transport :=
  match s.tr.state with
  | .idle => transportIdle s
  | .setup => transportSetup s
  | .xfer => transportXfer s
  | .hold => transportHold s
  | .gap => transportGap s

/-- The shifter's registers after a tick: `ShStart` or the acknowledge where the transport does them (R73, R74), else an
edge where one fires (R63), else nothing changes (R66). -/
def shifterNext (s : State) : Shifter :=
  match startByte s with
  | some b => shStart s.par s.sh b
  | none =>
    if acknowledging s then { s.sh with ovf := false }
    else if edgeFires s then shEdge s.par s.sh (sample s)
    else s.sh

/-- `UNCONFIGURED`: `init_go` arms (R86); armed, the settle delay counts ticks with `pins_ready = 1` (R87). -/
def sequencerUnconfigured (s : State) : Sequencer :=
  if s.sq.armed then
    if s.inp.pinsReady then
      if s.sq.settle < s.par.settleDelay then { s.sq with settle := s.sq.settle + 1 }
      else { s.sq with state := .configuring, step := false, issued := false }
    else s.sq
  else if s.inp.initGo then { s.sq with armed := true, settle := 0 }
  else s.sq

/-- `CONFIGURING`: the write is accepted (R90), then its `done` moves the sequencer on (R91). -/
def sequencerConfiguring (s : State) : Sequencer :=
  if s.sq.issued then
    if s.tr.done then
      if s.sq.step then { s.sq with state := .parked, issued := false }
      else { s.sq with step := true, issued := false }
    else s.sq
  else if s.tr.state = .idle then { s.sq with issued := true }
  else s.sq

/-- The sequencer's registers after a tick. It is absent with `P_REQUESTER = HOST` (DEDUCED, log 18: its registers then
stand still); `PARKED` is terminal (R92). -/
def sequencerNext (s : State) : Sequencer :=
  match s.par.requester with
  | .host => s.sq
  | .sequencer =>
    match s.sq.state with
    | .unconfigured => sequencerUnconfigured s
    | .configuring => sequencerConfiguring s
    | .parked => s.sq

/-- The events of one clock edge: the sample if the edge samples, then the edge with the lines after it (R63, R64). -/
def edgeEvents (s : State) : List BusEvent :=
  (if samplingEdge s.par.cpha s.sh.cnt then [BusEvent.sampled s.sh.cnt (sample s)] else []) ++
    [BusEvent.edge s.sh.cnt (shEdge s.par s.sh (sample s)).sclk (shEdge s.par s.sh (sample s)).sdo]

/-- What a tick appends to the bus trace (R8). -/
def tickEvents (s : State) : List BusEvent :=
  if accepting s then [.csAssert]
  else if deasserting s then [.csDeassert]
  else if (startByte s).isNone && !acknowledging s && edgeFires s then edgeEvents s
  else []

/-- All the writes of one tick together (R9). -/
def advance (s : State) : State :=
  { elapse s with
    tr := transportNext s
    sh := shifterNext s
    sq := sequencerNext s
    peer := peerNext s
    pinsSeen := s.pinsSeen || s.inp.pinsReady
    trace := s.trace ++ tickEvents s
    awaiting := awaitingNext s
    results := resultsNext s }

/-- One tick (R9). Reset overrides every other rule (R28, R100); then the model faults of R97 and R48 are tested
(DESIGN CHOICE, log 9: their order, and that a reset tick raises none; DEDUCED, log 19: the invariants are tested in every tick but a reset).
DESIGN CHOICE (log 14): `takeRdata` acts in a sequencer's build too. -/
def tick (s : State) : Host.Outcome State Fault Refusal :=
  if s.inp.rst then .next (resetTick s)
  else if !invariants s then .fault .invariantBroken
  else if s.pinsSeen && !s.inp.pinsReady then .fault .pinsReadyDropped
  else if s.inp.takeRdata && !s.tr.rdataValid then .fault .rdataUnwritten
  else if peerUndefined s then .fault .peerUndefined
  else .next (advance s)

/-- The requester's program holds the port and `init_go` low in this tick (R60 for `IDLE`; for the other statements
DESIGN CHOICE, log 13). -/
def holdLow (s : State) : State :=
  { s with inp := { s.inp with reqValid := false, initGo := false } }

/-- `WR` and `RD` (R60): the request stays on the port until the tick that accepts it, and is then struck off and waited
for. -/
def driveRequest (r : Request) (rest : List Stmt) (s : State) : State :=
  if waiting s then holdLow s
  else if s.tr.state = .idle && s.par.requester = .host then
    { present r (holdLow s) with prog := rest, awaiting := true }
  else present r (holdLow s)

/-- The requester's program drives the request port and `init_go` for one tick (R60; DESIGN CHOICE, log 13: when a
statement begins, and that `init_go` is 0 under a `WR` or `RD` and `req_valid` 0 under an `INIT`). With no program left and none waited for, and in a reset tick, the pins stand as sampled. -/
def drive (s : State) : State :=
  if s.inp.rst then s
  else match s.prog with
    | [] => if blocked s then holdLow s else s
    | .wr a v :: rest => driveRequest { dir := false, addr := a, wdata := v } rest s
    | .rd a :: rest => driveRequest { dir := true, addr := a, wdata := 0 } rest s
    | .init :: rest =>
      if waiting s then holdLow s
      else { s with inp := { s.inp with reqValid := false, initGo := true }, prog := rest }
    | .idle :: rest => if waiting s then holdLow s else { holdLow s with prog := rest }

/-- One tick with the requester's program driving its pins. -/
def clock (s : State) : Host.Outcome State Fault Refusal := tick (drive s)

/-- Goes on after a next state. -/
def andThen (o : Host.Outcome State Fault Refusal) (f : State → Host.Outcome State Fault Refusal) :
    Host.Outcome State Fault Refusal :=
  match o with
  | .next s => f s
  | .fault r => .fault r
  | .refused r => .refused r

/-- Runs tick after tick until `stop` holds, for as long as the schedule gives the inputs; the schedule is `fuel`
(DESIGN CHOICE, log 8). -/
def runOn (stop : State → Bool) : List Inputs → State → Host.Outcome State Fault Refusal
  | [], s => .next s
  | _ :: fuel, s => if stop s then .next s else andThen (clock s) (runOn stop fuel)

/-- An exchange has ended: by its 16th edge (R63) or by a reset (R107). -/
def exchangeOver (s : State) : Bool := !s.sh.run

/-- A transaction has ended: chip-select is deasserted again, by R75 or by a reset (R107). -/
def transactionOver (s : State) : Bool := !s.tr.csAsserted

/-- A request on the port (R72), and, where it is accepted, the transaction of R78 and R79 as far as the schedule goes.
A request that is not accepted in this tick has no effect (R77; DEDUCED, log 20, for a sequencer's build). -/
def transact (r : Request) (s : State) : Host.Outcome State Fault Refusal :=
  if !s.inp.rst && accepting (present r s) && decide (portRequest (present r s) = r) then
    andThen (tick (present r s)) (runOn transactionOver s.env)
  else tick (present r s)

/-- One exchange (R61) of a byte the transport starts in this tick, to its end as far as the schedule goes. `place` says
that the byte stands where its format belongs in the frame (R58 item 2). DEDUCED (log 10): elsewhere it is refused. DESIGN CHOICE
(log 9): ShifterBusy and the refusal are tested before the faults a tick tests. -/
def exchange (place : Bool) (b : Byte) (s : State) : Host.Outcome State Fault Refusal :=
  if s.inp.rst then tick s
  else if s.sh.run then .fault .shifterBusy
  else if place && decide (startByte s = some b) then andThen (tick s) (runOn exchangeOver s.env)
  else .refused .notIssued

end Sys2Proof.Machine
end

