-- ==== Sys2Proof/Machine/Sequencer.lean ====
section
/-! DEFINITION. INIT, the initialization entry point (43_init_sequencer.md). -/

namespace Sys2Proof.Machine

/-- INIT (R86): a tick with `init_go = 1`. With `P_REQUESTER = HOST` there is no sequencer to arm. -/
def execInit (s : State) : Host.Outcome State Fault Refusal :=
  tick { s with inp := { s.inp with initGo := true } }

end Sys2Proof.Machine
end

