-- ==== Sys2Proof/Machine/Shifter.lean ====
section
/-! DEFINITION. SHIFT, the byte exchange (41_byte_shifter.md). -/

namespace Sys2Proof.Machine

/-- SHIFT (R61): any byte, in any place of the frame, that the transport starts in this tick. -/
def execShift (tx : Byte) (s : State) : Host.Outcome State Fault Refusal := exchange true tx s

end Sys2Proof.Machine
end

