-- ==== Sys2Proof/Machine/Transport.lean ====
section
/-! DEFINITION. WRITE_REG and READ_REG, the two host operations (42_register_transport.md). -/

namespace Sys2Proof.Machine

/-- WRITE_REG (R78). -/
def execWriteReg (addr wdata : Byte) (s : State) : Host.Outcome State Fault Refusal :=
  transact { dir := false, addr := addr, wdata := wdata } s

/-- READ_REG (R79). The payload field is latched and otherwise ignored (R72). -/
def execReadReg (addr wdata : Byte) (s : State) : Host.Outcome State Fault Refusal :=
  transact { dir := true, addr := addr, wdata := wdata } s

end Sys2Proof.Machine
end

