-- ==== Sys2Proof/Machine/Wire.lean ====
section
/-! DEFINITION. The wire patterns: command bytes, the dummy byte, the two frames (30_encoding.md). -/

namespace Sys2Proof.Machine

/-- CMD_WRITE (R49, R50): the first exchange of a write frame. -/
def execCmdWrite (addr : Addr) (s : State) : Host.Outcome State Fault Refusal :=
  exchange (decide (s.tr.state = .setup)) (commandByte false addr) s

/-- CMD_READ (R49, R50): the first exchange of a read frame. -/
def execCmdRead (addr : Addr) (s : State) : Host.Outcome State Fault Refusal :=
  exchange (decide (s.tr.state = .setup)) (commandByte true addr) s

/-- CMD_WRITE_AI (R58): reserved, never emitted; "a model of the block needs no behaviour for them". -/
def execCmdWriteAi (_addr : Addr) (_s : State) : Host.Outcome State Fault Refusal := .refused .reservedCommand

/-- CMD_READ_AI (R58): reserved, never emitted. -/
def execCmdReadAi (_addr : Addr) (_s : State) : Host.Outcome State Fault Refusal := .refused .reservedCommand

/-- DUMMY (R51): the second exchange of a frame, or the third of a read frame. -/
def execDummy (s : State) : Host.Outcome State Fault Refusal :=
  exchange (decide (s.tr.state = .xfer) && (decide (s.tr.idx = 0) || s.tr.dir)) dummyByte s

/-- WRITE_FRAME (R53): the transaction that puts `00aaaaaa 11111111 vvvvvvvv` on the bus (DEDUCED, log 11). -/
def execWriteFrame (addr : Addr) (wdata : Byte) (s : State) : Host.Outcome State Fault Refusal :=
  transact { dir := false, addr := 0b00#2 ++ addr, wdata := wdata } s

/-- READ_FRAME (R53): the transaction that puts `10aaaaaa 11111111 11111111` on the bus (DEDUCED, log 11). -/
def execReadFrame (addr : Addr) (s : State) : Host.Outcome State Fault Refusal :=
  transact { dir := true, addr := 0b00#2 ++ addr, wdata := 0 } s

end Sys2Proof.Machine
end

