-- ==== Sys2Proof/Machine/Dispatch.lean ====
section
/-! DEFINITION. One arm per instruction, each one call of its meaning. -/

namespace Sys2Proof.Machine

def exec (i : Instr) (s : State) : Host.Outcome State Fault Refusal :=
  match i with
  | .writeReg addr wdata => Sys2Proof.Machine.execWriteReg addr wdata s
  | .readReg addr wdata => Sys2Proof.Machine.execReadReg addr wdata s
  | .shift tx => Sys2Proof.Machine.execShift tx s
  | .init => Sys2Proof.Machine.execInit s
  | .cmdWrite addr => Sys2Proof.Machine.execCmdWrite addr s
  | .cmdRead addr => Sys2Proof.Machine.execCmdRead addr s
  | .cmdWriteAi addr => Sys2Proof.Machine.execCmdWriteAi addr s
  | .cmdReadAi addr => Sys2Proof.Machine.execCmdReadAi addr s
  | .dummy => Sys2Proof.Machine.execDummy s
  | .writeFrame addr wdata => Sys2Proof.Machine.execWriteFrame addr wdata s
  | .readFrame addr => Sys2Proof.Machine.execReadFrame addr s

end Sys2Proof.Machine
end

