-- ==== Sys2Proof/Machine/Fetch.lean ====
section
/-! DEFINITION. Which instruction begins in the coming tick. The block fetches no code (R33, R109): an instruction is a
request that is accepted, a byte the transport starts, or a pulse on `init_go`; and how the host's table words are placed. -/

namespace Sys2Proof.Machine

/-- The format a started byte has by its place in the frame (R52, R58 item 2): the command byte first, then the dummy
byte, third the payload of a write or a read's second dummy byte. DESIGN CHOICE (log 24): a write's payload begins as SHIFT. -/
def startFormat (t : Transport) : Format :=
  if t.state = .setup then .cmd8
  else if t.idx = 0 || t.dir then .byte8
  else .shift8

/-- The word and format of the instruction that begins in the coming tick, if any. -/
def fetch (s : State) : Option (Format × Nat) :=
  if s.inp.rst then none
  else if accepting s then some (.req17, (requestWord (portRequest s)).toNat)
  else match startByte s with
    | some b => some (startFormat s.tr, b.toNat)
    | none =>
      if s.inp.initGo && decide (s.par.requester = .sequencer) then some (.pulse1, 1) else none

/-- Who must be the requester for a word of this format to act: INIT needs the sequencer (R86), all others a host. -/
def placeRequester : Format → Requester
  | .pulse1 => .sequencer
  | .req17 => .host
  | .shift8 => .host
  | .cmd8 => .host
  | .byte8 => .host
  | .frame24 => .host

/-- Brings the transport to the place of the frame where a byte of this format is started (log 6): a command byte at the
end of `SETUP`, a dummy byte at the acknowledge of exchange 0, a payload at the acknowledge of exchange 1 of a write. -/
def placeTransport (f : Format) (w : Nat) (t : Transport) : Transport :=
  match f with
  | .cmd8 =>
    { t with state := .setup, wait := 0, idx := 0, csAsserted := true, done := false,
             dir := w.testBit 7, addr := BitVec.ofNat 6 w }
  | .byte8 => { t with state := .xfer, wait := 0, idx := 0, csAsserted := true, done := false, dir := false }
  | .shift8 =>
    { t with state := .xfer, wait := 0, idx := 1, csAsserted := true, done := false, dir := false,
             wdata := BitVec.ofNat 8 w }
  | .req17 => t
  | .pulse1 => t
  | .frame24 => t

/-- The shifter there: idle, and with the exchange before just completed for the second and third place. -/
def placeShifter (f : Format) (p : Params) (h : Shifter) : Shifter :=
  match f with
  | .cmd8 => { h with run := false, ovf := false, cnt := 0, sclk := p.cpol }
  | .byte8 => { h with run := false, ovf := true, cnt := 0, sclk := p.cpol }
  | .shift8 => { h with run := false, ovf := true, cnt := 0, sclk := p.cpol }
  | .req17 => { h with sclk := p.cpol ^^ h.cnt.getLsbD 0 }
  | .pulse1 => { h with sclk := p.cpol ^^ h.cnt.getLsbD 0 }
  | .frame24 => { h with sclk := p.cpol ^^ h.cnt.getLsbD 0 }

/-- Places a word of a format for the next step (log 6): the word in the slot; the build it needs, at the vector values,
with the clock line at that build's level; inputs that are quiet but for `pins_ready`; no program in its way; and for a
byte of a frame the transport at that byte's place. -/
def placeWord (f : Format) (w : Nat) (s : State) : State :=
  { s with
    slot := some (f, w)
    par := Params.vector (placeRequester f)
    inp := { Inputs.quiet with pinsReady := true }
    prog := []
    awaiting := false
    tr := placeTransport f w s.tr
    sh := placeShifter f (Params.vector (placeRequester f)) s.sh }

end Sys2Proof.Machine
end

