-- ==== Sys2Proof/Machine/Step.lean ====
section
/-! DEFINITION. The machine's step, and the placing of a table word before it. -/

namespace Sys2Proof.Machine

/-- Runs the instruction a word decodes to; a word of no instruction is refused by name. -/
def runWord (f : Format) (w : Nat) (s : State) : Host.Outcome State Fault Refusal :=
  match decode f w with
  | .ok i => exec i s
  | .error e => .refused (.undecodable e)

/-- One step: the word in the slot, if one was placed; else the requester's program drives its pins and the instruction
that begins in this tick runs; else one tick passes (R9). -/
def step (s : State) : Host.Outcome State Fault Refusal :=
  match s.slot with
  | some fw => runWord fw.1 fw.2 { s with slot := none }
  | none =>
    match fetch (drive s) with
    | some fw => runWord fw.1 fw.2 (drive s)
    | none => tick (drive s)

/-- The state with a table row's word placed for the next step (fixed name, used by the host). -/
def State.withFetchWord (s : State) (nbits w : Nat) : State :=
  match tableFormat nbits w with
  | some f => placeWord f w s
  | none => s

end Sys2Proof.Machine
end

