-- ==== Sys2Proof/Machine/Bus.lean ====
section
/-! DEFINITION. Reading the bus trace (R8): the decoder of R59, "an instrumented bus recorder" (R106). -/

namespace Sys2Proof.Machine

/-- Splits bits, first bit first, into bytes, most-significant bit first (R37); an incomplete byte is dropped (DESIGN
CHOICE, log 25). -/
def bytesOf : List Bool → List Byte
  | b7 :: b6 :: b5 :: b4 :: b3 :: b2 :: b1 :: b0 :: rest =>
    (BitVec.ofBool b7 ++ BitVec.ofBool b6 ++ BitVec.ofBool b5 ++ BitVec.ofBool b4 ++
      BitVec.ofBool b3 ++ BitVec.ofBool b2 ++ BitVec.ofBool b1 ++ BitVec.ofBool b0) :: bytesOf rest
  | _ => []

/-- The bits sent: the level of `sdo` at each sampling edge (R61, R64). -/
def sentBits (cpha : Bool) : List BusEvent → List Bool
  | [] => []
  | .edge k _ sdo :: rest =>
    if samplingEdge cpha k then sdo :: sentBits cpha rest else sentBits cpha rest
  | .csAssert :: rest => sentBits cpha rest
  | .csDeassert :: rest => sentBits cpha rest
  | .sampled _ _ :: rest => sentBits cpha rest

/-- The bits received: what was sampled (R64). -/
def receivedBits : List BusEvent → List Bool
  | [] => []
  | .sampled _ b :: rest => b :: receivedBits rest
  | .edge _ _ _ :: rest => receivedBits rest
  | .csAssert :: rest => receivedBits rest
  | .csDeassert :: rest => receivedBits rest

/-- One chip-select window of a trace: its events, and whether it was closed. -/
structure Window where
  events : List BusEvent
  closed : Bool
  deriving DecidableEq, Repr

/-- Splits a trace by `CsAssert` and `CsDeassert` (R59). `cur` holds the open window's events, last first. -/
def windowsFrom : Option (List BusEvent) → List BusEvent → List Window
  | none, [] => []
  | some cur, [] => [{ events := cur.reverse, closed := false }]
  | none, .csAssert :: rest => windowsFrom (some []) rest
  | none, _ :: rest => windowsFrom none rest
  | some cur, .csDeassert :: rest => { events := cur.reverse, closed := true } :: windowsFrom none rest
  | some cur, .csAssert :: rest => { events := cur.reverse, closed := false } :: windowsFrom (some []) rest
  | some cur, e :: rest => windowsFrom (some (e :: cur)) rest

/-- The windows of a trace, in order. -/
def windows (tr : List BusEvent) : List Window := windowsFrom none tr

/-- The bytes sent in each closed window: the frames of a trace (R59). DESIGN CHOICE (log 25): a byte is eight sampling
edges, also where a reset cuts the exchange off before its 16th edge. -/
def frames (cpha : Bool) (tr : List BusEvent) : List (List Byte) :=
  ((windows tr).filter (fun w => w.closed)).map (fun w => bytesOf (sentBits cpha w.events))

/-- Three bytes as the 24 bits of the format FRAME24, first bit leftmost (R53). -/
def frameWord : List Byte → Option Nat
  | [f0, f1, f2] => some (f0 ++ f1 ++ f2).toNat
  | _ => none

end Sys2Proof.Machine
end

