-- ==== Sys2Proof/Safety.lean ====
section
/-! DEFINITION. The terms claims are stated in: which ticks run undisturbed, which schedules are calm and strobe often
enough, runs of ticks, what a completed exchange or transaction leaves, and bracketed traces. -/

namespace Sys2Proof.Machine

/-- The coming tick is no reset and raises none of the model faults of R97 and R48. -/
def undisturbed (s : State) : Bool :=
  !s.inp.rst && invariants s && !(s.pinsSeen && !s.inp.pinsReady) && !(s.inp.takeRdata && !s.tr.rdataValid) &&
    !peerUndefined s

/-- Inputs that keep the duties of 70_reset_and_hazards.md: no reset, the pins ready (R112), no result read (R98). -/
def calm (i : Inputs) : Bool := !i.rst && i.pinsReady && !i.takeRdata

/-- How many ticks of a schedule have `edge_tick = 1` (R24). -/
def strobes (l : List Inputs) : Nat := l.countP (fun i => i.edgeTick)

/-- `EdgeFair` (R96): "on every tick there is a later tick with `edge_tick = 1`". -/
def EdgeFair (ins : Nat → Inputs) : Prop := ∀ t, ∃ u, t ≤ u ∧ (ins u).edgeTick = true

/-- The first `n` inputs of a stream, as a schedule. -/
def schedule (ins : Nat → Inputs) (n : Nat) : List Inputs := (List.range n).map ins

/-- `n` ticks, stopping at the first fault. -/
def runTicks : Nat → State → Host.Outcome State Fault Refusal
  | 0, s => .next s
  | n + 1, s => andThen (clock s) (runTicks n)

/-- The state of a transaction that follows another: the order of R12. -/
def stateAfter : TState → TState
  | .idle => .setup
  | .setup => .xfer
  | .xfer => .hold
  | .hold => .gap
  | .gap => .idle

/-- The state of the sequencer that follows another: the order of R85, of which `PARKED` is the end. -/
def sequenceAfter : QState → QState
  | .unconfigured => .configuring
  | .configuring => .parked
  | .parked => .parked

/-- A run is safe if it ends in no fault. -/
def Safe (o : Host.Outcome State Fault Refusal) : Prop := ∀ f, o ≠ .fault f

/-- The block is ready for a host's request (R72, R77): `P_REQUESTER = HOST`, `req_ready = 1`, an undisturbed tick. -/
def hostReady (s : State) : Bool :=
  decide (s.par.requester = .host) && decide (s.tr.state = .idle) && undisturbed s

/-- The request `r` is accepted in the coming tick (R72): a host presents it to a ready block, or the sequencer has it on
the port (R30, R89). -/
def takesRequest (r : Request) (s : State) : Bool :=
  decide (s.tr.state = .idle) && undisturbed s &&
    (decide (s.par.requester = .host) || (portValid s && decide (portRequest s = r)))

/-- The reference peer, if attached, is at a byte's first bit and the byte is one R48 defines it for. -/
def peerListens (b : Byte) (s : State) : Bool :=
  decide (s.attached ≠ .reference) ||
    (decide (s.peer.bits = 0) && decide (s.peer.n < 3) &&
      (if s.peer.n = 0 then !b.getLsbD 6 else !s.peer.ai))

/-- The transport starts the exchange of byte `b` in the coming tick (R73, R74). -/
def startsByte (b : Byte) (s : State) : Bool :=
  undisturbed s && !s.sh.run && decide (startByte s = some b) && peerListens b s

/-- No event of a list moves chip-select. -/
def unselecting (l : List BusEvent) : Bool :=
  l.all (fun e => decide (e ≠ .csAssert) && decide (e ≠ .csDeassert))

/-- From `s` the bytes `out` were sent and the bytes `back` were received (R61), with the events `ev` on the bus, none of
them a move of chip-select. -/
def Carried (cpha : Bool) (ev : List BusEvent) (out back : List Byte) : Prop :=
  unselecting ev = true ∧
  (sentBits cpha ev).length = 8 * out.length ∧ bytesOf (sentBits cpha ev) = out ∧
  (receivedBits ev).length = 8 * back.length ∧ bytesOf (receivedBits ev) = back

/-- What one exchange of `tx`, started in `s`, leaves in `t` (R61): the byte on the wire, the received byte in `sh_sr`, the
flags, the clock back at its level, the transport waiting in `XFER`. -/
def Exchanged (tx : Byte) (s t : State) : Prop :=
  (∃ ev, t.trace = s.trace ++ ev ∧ Carried s.par.cpha ev [tx] [t.sh.sr]) ∧
  t.sh.ovf = true ∧ t.sh.run = false ∧ t.sh.cnt = 0 ∧ t.sh.sclk = s.sh.sclk ∧ t.sh.sdo = tx.getLsbD 0 ∧
  t.tr = { s.tr with state := .xfer, idx := if s.tr.state = .setup then s.tr.idx else s.tr.idx + 1, done := false }

/-- What a transaction started in `s` leaves in `t` (R78, R79): one chip-select window holding the frame `out`, the received
bytes `back`; the bus released; `done` set; and the transport's registers `tr`. -/
def Transacted (out back : List Byte) (tr : Transport) (s t : State) : Prop :=
  (∃ ev, t.trace = s.trace ++ ([.csAssert] ++ ev ++ [.csDeassert]) ∧ Carried s.par.cpha ev out back) ∧
  t.tr = tr ∧ t.sh.run = false ∧ t.sh.ovf = false ∧ t.sh.cnt = 0 ∧ t.sh.sclk = s.par.cpol

/-- The transport's registers on the tick after a completed transaction for the request `r` (R72 to R75). -/
def finished (r : Request) (rdata : Byte) (valid : Bool) (s : State) : Transport :=
  { state := .gap, dir := r.dir, addr := maskAddr r.addr, wdata := r.wdata, idx := 2, wait := s.par.csIdle,
    csAsserted := false, rdata := rdata, rdataValid := valid, done := true }

/-- Reads a trace from a chip-select level: `CsAssert` only when deasserted, `CsDeassert`, edges and samples only when
asserted (R80). Answers the level at the end, or nothing if the trace breaks the rule. -/
def bracketed : Bool → List BusEvent → Option Bool
  | cs, [] => some cs
  | cs, .csAssert :: rest => if cs then none else bracketed true rest
  | cs, .csDeassert :: rest => if cs then bracketed false rest else none
  | cs, .edge _ _ _ :: rest => if cs then bracketed cs rest else none
  | cs, .sampled _ _ :: rest => if cs then bracketed cs rest else none

/-- In `XFER` an exchange runs or has completed (R12): what makes every `XFER` go on as the strobe does. -/
def exchangeAlive (s : State) : Bool := decide (s.tr.state ≠ .xfer) || s.sh.run || s.sh.ovf

end Sys2Proof.Machine
end

