-- ==== Sys2Proof/Certificates/Slice0/Obligations.lean ====
section
/-! DEFINITION. The statements for the provers, each naming the rule or section of spec/ it formalises. -/

open Sys2Proof Sys2Proof.Machine

/-! Encoding (30_encoding.md) -/

/-- Every instruction's word decodes, in its own format, to that instruction. -/
def Obligations.DecodeOfEncodeIsTheInstruction : Prop :=
  ∀ i : Instr, decode i.format (encode i) = .ok i

/-- A word that decodes is the word of the instruction it decodes to, and is read in that instruction's format:
no two words of one format have one meaning. -/
def Obligations.EncodeOfDecodeIsTheWord : Prop :=
  ∀ (f : Format) (w : Nat) (i : Instr), decode f w = .ok i → i.format = f ∧ encode i = w

/-- A few words written out from the spec's encodings (95_test_vectors.md part 2, 30_encoding.md). -/
def Obligations.WrittenOutWordsDecode : Prop :=
  decode .req17 0x00314 = .ok (.writeReg 0x03#8 0x14#8) ∧
  decode .req17 0x1C5AB = .ok (.readReg 0xC5#8 0xAB#8) ∧
  decode .cmd8 0x05 = .ok (.cmdWrite 0x05#6) ∧
  decode .cmd8 0x92 = .ok (.cmdRead 0x12#6) ∧
  decode .frame24 0x05FFA7 = .ok (.writeFrame 0x05#6 0xA7#8) ∧
  decode .frame24 0x92FFFF = .ok (.readFrame 0x12#6)

/-- R50: the command byte is the masked address, with bit 7 set for a read; bit 6 is 0 whatever the input. -/
def Obligations.CommandByteIsTheMaskedAddress : Prop :=
  ∀ a : Byte,
    commandByte false (maskAddr a) = a &&& 0x3F#8 ∧
    commandByte true (maskAddr a) = (a &&& 0x3F#8) ||| 0x80#8 ∧
    ∀ (d : Bool) (b : Addr), (commandByte d b).getLsbD 6 = false ∧ (commandByte d b).getLsbD 7 = d ∧
      (commandByte d b).extractLsb' 0 6 = b

/-! The step and its fetch -/

/-- A step runs the instruction it decodes: a word in the slot first, else the instruction that begins in this tick with
the requester's program driving the pins; where none begins, one tick passes. -/
def Obligations.StepRunsTheDecodedInstruction : Prop :=
  (∀ (s : State) (f : Format) (w : Nat) (i : Instr),
    s.slot = some (f, w) → decode f w = .ok i → i.wf = true → step s = exec i { s with slot := none }) ∧
  (∀ (s : State) (f : Format) (w : Nat) (i : Instr),
    s.slot = none → fetch (drive s) = some (f, w) → decode f w = .ok i → i.wf = true → step s = exec i (drive s)) ∧
  (∀ s : State, s.slot = none → fetch (drive s) = none → step s = tick (drive s))

/-- Whatever the block starts is a well-formed instruction of its format: it never starts a reserved command byte (R58),
in any state. -/
def Obligations.WhatTheBlockStartsIsWellFormed : Prop :=
  ∀ (s : State) (f : Format) (w : Nat), fetch s = some (f, w) →
    ∃ i, decode f w = .ok i ∧ i.format = f ∧ i.wf = true

/-- R60: `WR a, v` at the head of a host's program, with the block ready, is struck off and its request runs; the program
then waits for its `done` (when a statement begins is the model's choice, log 13). -/
def Obligations.ProgramWriteRunsItsRequest : Prop :=
  ∀ (s : State) (a v : Byte) (rest : List Stmt),
    s.slot = none → s.prog = .wr a v :: rest → hostReady s = true → waiting s = false →
    ∃ s', step s = exec (.writeReg a v) s' ∧ s'.prog = rest ∧ s'.awaiting = true ∧ s'.tr = s.tr ∧ s'.sh = s.sh ∧
      s'.env = s.env ∧ hostReady s' = true

/-- R60: `RD a` there is struck off and runs as the request with payload field 0x00; the program then waits for its `done`
(log 13). -/
def Obligations.ProgramReadRunsItsRequest : Prop :=
  ∀ (s : State) (a : Byte) (rest : List Stmt),
    s.slot = none → s.prog = .rd a :: rest → hostReady s = true → waiting s = false →
    ∃ s', step s = exec (.readReg a 0x00#8) s' ∧ s'.prog = rest ∧ s'.awaiting = true ∧ s'.tr = s.tr ∧ s'.sh = s.sh ∧
      s'.env = s.env ∧ hostReady s' = true

/-- R60: `INIT` at the head of a program is a pulse of one tick and is struck off: with the sequencer it runs INIT, with a
host nothing comes of it; `IDLE` passes one tick in which nothing is requested and no pulse given, whatever stands on the
pins (log 13: when a statement begins; log 18: a host's build has no sequencer to arm). -/
def Obligations.ProgramInitAndIdleTakeOneTick : Prop :=
  ∀ (s : State) (rest : List Stmt), s.slot = none → undisturbed s = true → waiting s = false → s.tr.state = .idle →
    (s.prog = .init :: rest → s.par.requester = .sequencer → s.sq.state ≠ .configuring →
      ∃ s', step s = exec .init s' ∧ s'.prog = rest ∧ s'.sq = s.sq ∧ s'.tr = s.tr ∧ s'.sh = s.sh ∧ s'.env = s.env ∧
        undisturbed s' = true) ∧
    (s.prog = .init :: rest → s.par.requester = .host →
      ∃ t, step s = .next t ∧ t.prog = rest ∧ t.tr = { s.tr with done := false } ∧ t.sh = s.sh ∧ t.sq = s.sq ∧
        t.trace = s.trace) ∧
    (s.prog = .idle :: rest → (s.par.requester = .host ∨ s.sq.state ≠ .configuring) →
      ∃ t, step s = .next t ∧ t.prog = rest ∧ t.tr = { s.tr with done := false } ∧ t.sh = s.sh ∧ t.trace = s.trace ∧
        (s.par.requester = .host ∨ s.sq.armed = false → t.sq = s.sq))

/-- A program blocked in a `WR` or `RD` strikes nothing off and makes no further request up to the tick where `done = 1` is
seen, which ends the wait ("wait until `done = 1`", R60). The model's own are: that nothing is struck off in that very tick
either, nor in a reset tick (DESIGN CHOICE, log 13), that a `done = 1` seen in a reset tick ends the wait (DESIGN CHOICE,
log 14), and that a reset that shows no `done` does not end it (DEDUCED, log 22). -/
def Obligations.ProgramWaitsForItsDone : Prop :=
  ∀ s : State, s.par.requester = .host → s.awaiting = true →
    (undisturbed s = true →
      ∃ t, clock s = .next t ∧ t.prog = s.prog ∧ t.awaiting = (!s.tr.done) ∧
        (s.tr.state = .idle → t.tr = { s.tr with done := false } ∧ t.trace = s.trace)) ∧
    (s.inp.rst = true →
      ∃ t, clock s = .next t ∧ t.prog = s.prog ∧ t.awaiting = (!s.tr.done) ∧ t.tr.state = .idle ∧ t.tr.done = false)

/-! The Byte Shifter (41_byte_shifter.md) -/

/-- R62: what `ShStart(b)` leaves, one tick later, in both phases. -/
def Obligations.StartLoadsTheShifter : Prop :=
  ∀ (s : State) (b : Byte), undisturbed s = true → startByte s = some b →
    ∃ t, tick s = .next t ∧
      t.sh = { sr := b, cnt := 0, ovf := false, run := true, rxbit := s.sh.rxbit, sclk := s.sh.sclk,
               sdo := if s.par.cpha = false then b.getLsbD 7 else s.sh.sdo } ∧
      t.sh.sclk = s.par.cpol ∧ t.trace = s.trace

/-- R62, R97: `ShStart` with pre-tick `sh_run = 1` is the model fault ShifterBusy. That SHIFT and the command and dummy
bytes stop in it for every byte, before the refusal `notIssued` and the faults of a tick are tested, is the model's choice
(DESIGN CHOICE, log 9: R62 and R97 do not order the stops). -/
def Obligations.StartWhileRunningFaults : Prop :=
  ∀ (s : State) (tx : Byte) (a : Addr), s.inp.rst = false → s.sh.run = true →
    exec (.shift tx) s = .fault .shifterBusy ∧ exec (.cmdWrite a) s = .fault .shifterBusy ∧
    exec (.cmdRead a) s = .fault .shifterBusy ∧ exec .dummy s = .fault .shifterBusy

/-- R63: with `sh_run = 1`, a tick with `edge_tick = 1` inverts `sclk`, counts, and on the 16th edge wraps, stops and sets
`sh_ovf`; one with `edge_tick = 0` changes none of the shifter's registers; with `sh_run = 0` there is no edge (R66). -/
def Obligations.ClockEdgeCountsAndCompletes : Prop :=
  ∀ s : State, undisturbed s = true →
    ∃ t, tick s = .next t ∧
      (s.sh.run = true → s.inp.edgeTick = true →
        t.sh.sclk = (!s.sh.sclk) ∧
        (s.sh.cnt = 15 → t.sh.cnt = 0 ∧ t.sh.run = false ∧ t.sh.ovf = true) ∧
        (s.sh.cnt ≠ 15 → t.sh.cnt = s.sh.cnt + 1 ∧ t.sh.run = true ∧ t.sh.ovf = false) ∧
        ∃ ev, t.trace = s.trace ++ (ev ++ [.edge s.sh.cnt t.sh.sclk t.sh.sdo])) ∧
      (s.sh.run = true → s.inp.edgeTick = false → t.sh = s.sh ∧ t.trace = s.trace) ∧
      (s.sh.run = false → t.sh.sclk = s.sh.sclk ∧ t.sh.rxbit = s.sh.rxbit ∧
        (t.trace = s.trace ∨ t.trace = s.trace ++ [.csAssert] ∨ t.trace = s.trace ++ [.csDeassert]))

/-- R64: the sampling edge, the first of a pulse with `P_CPHA = 0` and the second with 1, reads the line; with no fixture
attached what is read is the input `sdi` of that tick (R25, R43). -/
def Obligations.SamplingEdgeReadsTheLine : Prop :=
  ∀ s : State, undisturbed s = true → s.sh.run = true → s.inp.edgeTick = true →
    s.sh.cnt.getLsbD 0 = s.par.cpha →
    ∃ t x, tick s = .next t ∧ (s.attached = .draws → x = s.inp.sdi) ∧
      t.trace = s.trace ++ [.sampled s.sh.cnt x, .edge s.sh.cnt t.sh.sclk t.sh.sdo] ∧
      (s.par.cpha = false → t.sh.rxbit = x ∧ t.sh.sr = s.sh.sr ∧ t.sh.sdo = s.sh.sdo) ∧
      (s.par.cpha = true → t.sh.rxbit = s.sh.rxbit ∧
        t.sh.sr = s.sh.sr.extractLsb' 0 7 ++ BitVec.ofBool x ∧ t.sh.sdo = s.sh.sdo) ∧
      x = sample s

/-- R65: the other edge moves the register and the output line; on edge 15 with `P_CPHA = 0` `sdo` keeps `tx[0]`. -/
def Obligations.OtherEdgeMovesTheRegister : Prop :=
  ∀ s : State, undisturbed s = true → s.sh.run = true → s.inp.edgeTick = true →
    s.sh.cnt.getLsbD 0 ≠ s.par.cpha →
    ∃ t, tick s = .next t ∧
      t.trace = s.trace ++ [.edge s.sh.cnt t.sh.sclk t.sh.sdo] ∧ t.sh.rxbit = s.sh.rxbit ∧
      (s.par.cpha = false → t.sh.sr = s.sh.sr.extractLsb' 0 7 ++ BitVec.ofBool s.sh.rxbit ∧
        t.sh.sdo = if s.sh.cnt = 15 then s.sh.sdo else s.sh.sr.getLsbD 6) ∧
      (s.par.cpha = true → t.sh.sr = s.sh.sr ∧ t.sh.sdo = s.sh.sr.getLsbD 7)

/-- R61: SHIFT, at whatever pace the strobe comes, sends its byte most-significant bit first, and the byte it receives is
in `sh_sr`; the level of `sdo` at the eight sampling edges is the byte sent. -/
def Obligations.ShiftExchangesOneByte : Prop :=
  ∀ (tx : Byte) (s : State), startsByte tx s = true → s.env.all calm = true → 16 ≤ strobes s.env →
    ∃ t, exec (.shift tx) s = .next t ∧ Exchanged tx s t

/-- The command bytes and the dummy byte complete their exchange in their place of the frame (R49, R51, R61). -/
def Obligations.CommandAndDummyBytesAreExchanged : Prop :=
  (∀ (a : Addr) (s : State), s.tr.state = .setup → startsByte (0b00#2 ++ a) s = true → s.env.all calm = true →
    16 ≤ strobes s.env → ∃ t, exec (.cmdWrite a) s = .next t ∧ Exchanged (0b00#2 ++ a) s t) ∧
  (∀ (a : Addr) (s : State), s.tr.state = .setup → startsByte (0b10#2 ++ a) s = true → s.env.all calm = true →
    16 ≤ strobes s.env → ∃ t, exec (.cmdRead a) s = .next t ∧ Exchanged (0b10#2 ++ a) s t) ∧
  (∀ s : State, s.tr.state = .xfer → (s.tr.idx = 0 ∨ s.tr.dir = true) → startsByte 0xFF#8 s = true →
    s.env.all calm = true → 16 ≤ strobes s.env → ∃ t, exec .dummy s = .next t ∧ Exchanged 0xFF#8 s t)

/-- R69: if `sdi` equals `sdo` at every sampling edge, SHIFT returns the byte it sent, for every byte and either phase; so
it does with the model's loopback harness attached (that a sample is then the pre-tick `sdo` is DEDUCED, log 16). -/
def Obligations.LoopbackReturnsTheByte : Prop :=
  ∀ (tx : Byte) (s : State), startsByte tx s = true → s.env.all calm = true → 16 ≤ strobes s.env →
    ∃ t ev, exec (.shift tx) s = .next t ∧ t.trace = s.trace ++ ev ∧
      (receivedBits ev = sentBits s.par.cpha ev → t.sh.sr = tx) ∧
      (s.attached = .loopback → t.sh.sr = tx)

/-- R96: without a strobe a running exchange never ends: the block stays in `XFER`, busy, chip-select asserted, and every
register of the shifter keeps its value, for as many ticks as one likes. -/
def Obligations.NoStrobeNoProgress : Prop :=
  ∀ (s : State) (n : Nat), undisturbed s = true → s.sh.run = true →
    (s.inp :: s.env).all (fun i => calm i && !i.edgeTick) = true → 0 < n → n ≤ s.env.length + 1 →
    ∃ t, runTicks n s = .next t ∧ t.sh = s.sh ∧ t.tr = { s.tr with done := false } ∧ t.tr.state = .xfer ∧
      t.tr.csAsserted = true ∧ busy t = true ∧ t.trace = s.trace

/-- R96, `EdgeFair`: where the strobe never stops for good, every accepted write and read ends, with `done`: a host's, and
the sequencer's own writes. -/
def Obligations.FairStrobeEndsEveryRequest : Prop :=
  ∀ (ins : Nat → Inputs) (s : State) (a v : Byte), (∀ k, calm (ins k) = true) → EdgeFair ins →
    (takesRequest { dir := false, addr := a, wdata := v } s = true →
      ∃ n t, exec (.writeReg a v) { s with env := schedule ins n } = .next t ∧ t.tr.done = true) ∧
    (takesRequest { dir := true, addr := a, wdata := v } s = true →
      ∃ n t, exec (.readReg a v) { s with env := schedule ins n } = .next t ∧ t.tr.done = true)

/-! The Register Transport (42_register_transport.md) -/

/-- R71: which byte is given to `ShStart`, and when: F(0) at the end of `SETUP`, F(1) and F(2) at the acknowledge of the
exchange before, nothing else ever. -/
def Obligations.OnlyFrameBytesAreStarted : Prop :=
  ∀ s : State, startByte s =
    if s.tr.state = .setup ∧ s.tr.wait = 0 then some (BitVec.ofBool s.tr.dir ++ 0b0#1 ++ s.tr.addr)
    else if s.tr.state = .xfer ∧ s.sh.ovf = true ∧ s.tr.idx = 0 then some 0xFF#8
    else if s.tr.state = .xfer ∧ s.sh.ovf = true ∧ s.tr.idx = 1 then
      some (if s.tr.dir = false then s.tr.wdata else 0xFF#8)
    else none

/-- R72: `IDLE` accepts the request on the port and asserts chip-select, or changes nothing but `done`. -/
def Obligations.IdleAcceptsTheRequest : Prop :=
  ∀ s : State, undisturbed s = true → s.tr.state = .idle →
    ∃ t, tick s = .next t ∧ t.sh = s.sh ∧
      (portValid s = true →
        t.tr = { state := .setup, dir := (portRequest s).dir, addr := (portRequest s).addr.extractLsb' 0 6,
                 wdata := (portRequest s).wdata, idx := 0, wait := s.par.csSetup, csAsserted := true,
                 rdata := s.tr.rdata, rdataValid := s.tr.rdataValid, done := false } ∧
        t.trace = s.trace ++ [.csAssert]) ∧
      (portValid s = false → t.tr = { s.tr with done := false } ∧ t.trace = s.trace)

/-- R73: `SETUP` counts `t_wait` down, then starts F(0) and goes to `XFER`; no clock edge happens in it. -/
def Obligations.SetupWaitsThenStarts : Prop :=
  ∀ s : State, undisturbed s = true → s.tr.state = .setup →
    ∃ t, tick s = .next t ∧ t.trace = s.trace ∧ t.sh.sclk = s.sh.sclk ∧
      (0 < s.tr.wait → t.tr = { s.tr with wait := s.tr.wait - 1, done := false } ∧ t.sh = s.sh) ∧
      (s.tr.wait = 0 → t.tr = { s.tr with state := .xfer, done := false } ∧
        t.sh = shStart s.par s.sh (frameByte s.tr 0))

/-- R74: the acknowledge in `XFER`: the third byte of a read goes to `rdata`, every other received byte is discarded, and
the next exchange starts on the same tick or the transport goes to `HOLD`. -/
def Obligations.AcknowledgeKeepsOnlyTheReadPayload : Prop :=
  ∀ s : State, undisturbed s = true → s.tr.state = .xfer →
    ∃ t, tick s = .next t ∧ t.tr.done = false ∧
      (s.sh.ovf = false → t.tr = { s.tr with done := false }) ∧
      (s.sh.ovf = true →
        t.sh.ovf = false ∧ t.trace = s.trace ∧ t.sh.sclk = s.par.cpol ∧
        (s.tr.idx = 2 ∧ s.tr.dir = true → t.tr.rdata = s.sh.sr ∧ t.tr.rdataValid = true) ∧
        (¬(s.tr.idx = 2 ∧ s.tr.dir = true) → t.tr.rdata = s.tr.rdata ∧ t.tr.rdataValid = s.tr.rdataValid) ∧
        (s.tr.idx < 2 → t.tr.idx = s.tr.idx + 1 ∧ t.tr.state = .xfer ∧ t.tr.wait = s.tr.wait ∧
          t.sh = shStart s.par s.sh (frameByte s.tr (s.tr.idx + 1))) ∧
        (s.tr.idx = 2 → t.tr.idx = 2 ∧ t.tr.state = .hold ∧ t.tr.wait = s.par.csHold ∧
          t.sh = { s.sh with ovf := false }))

/-- R75: `HOLD` counts `t_wait` down, then deasserts chip-select and pulses `done`; no clock edge happens in it. -/
def Obligations.HoldWaitsThenReleases : Prop :=
  ∀ s : State, undisturbed s = true → s.tr.state = .hold →
    ∃ t, tick s = .next t ∧ t.sh = s.sh ∧
      (0 < s.tr.wait → t.tr = { s.tr with wait := s.tr.wait - 1, done := false } ∧ t.trace = s.trace) ∧
      (s.tr.wait = 0 → t.tr = { s.tr with csAsserted := false, done := true, wait := s.par.csIdle, state := .gap } ∧
        t.trace = s.trace ++ [.csDeassert])

/-- R76: from the release, `GAP` lasts `P_CS_IDLE + 1` ticks with chip-select deasserted, whatever is requested, and no
request is taken before the tick after it. -/
def Obligations.GapSeparatesTheWindows : Prop :=
  ∀ s : State, undisturbed s = true → s.tr.state = .gap → s.env.all calm = true → s.tr.wait ≤ s.env.length →
    (∀ n t, n ≤ s.tr.wait → runTicks n s = .next t → t.tr.state = .gap ∧ t.tr.csAsserted = false ∧ t.trace = s.trace) ∧
    ∃ t, runTicks (s.tr.wait + 1) s = .next t ∧ t.tr.state = .idle ∧ t.tr.csAsserted = false ∧ t.trace = s.trace

/-- R77: a host's request presented in any state but `IDLE` has no effect: the tick is the one without it. A WRITE_FRAME
or READ_FRAME there is such a request (DEDUCED, log 11: R77 itself does not speak of frames). -/
def Obligations.BusyRequestHasNoEffect : Prop :=
  ∀ (s : State) (a v : Byte) (b : Addr), s.par.requester = .host → s.tr.state ≠ .idle →
    exec (.writeReg a v) s = tick s ∧ exec (.readReg a v) s = tick s ∧
    exec (.writeFrame b v) s = tick s ∧ exec (.readFrame b) s = tick s

/-- WRITE_REG (R78): one chip-select window holding exactly `[address & 0x3F, 0xFF, value]`; the received bytes are
discarded and `rdata` keeps its value; then `done`. -/
def Obligations.WriteRegPutsItsFrameOnTheBus : Prop :=
  ∀ (a v : Byte) (s : State), takesRequest { dir := false, addr := a, wdata := v } s = true → s.env.all calm = true →
    53 + s.par.csSetup + s.par.csHold ≤ strobes s.env →
    ∃ t back, exec (.writeReg a v) s = .next t ∧ back.length = 3 ∧
      Transacted [a &&& 0x3F#8, 0xFF#8, v] back
        (finished { dir := false, addr := a, wdata := v } s.tr.rdata s.tr.rdataValid s) s t

/-- READ_REG (R79): the window holds exactly `[(address & 0x3F) | 0x80, 0xFF, 0xFF]`, and the byte received in the third
exchange is the result in `rdata`. -/
def Obligations.ReadRegReturnsTheThirdByte : Prop :=
  ∀ (a v : Byte) (s : State), takesRequest { dir := true, addr := a, wdata := v } s = true → s.env.all calm = true →
    53 + s.par.csSetup + s.par.csHold ≤ strobes s.env →
    ∃ t r0 r1 rx, exec (.readReg a v) s = .next t ∧
      Transacted [(a &&& 0x3F#8) ||| 0x80#8, 0xFF#8, 0xFF#8] [r0, r1, rx]
        (finished { dir := true, addr := a, wdata := v } rx true s) s t

/-- WRITE_FRAME and READ_FRAME (R53): the 24 bits on the wire are the frame's word, and decode to the frame. -/
def Obligations.FramesAreTheirWords : Prop :=
  ∀ (a : Addr) (v : Byte) (s : State), hostReady s = true → s.env.all calm = true →
    53 + s.par.csSetup + s.par.csHold ≤ strobes s.env →
    (∃ t out back, exec (.writeFrame a v) s = .next t ∧
      Transacted out back (finished { dir := false, addr := 0b00#2 ++ a, wdata := v } s.tr.rdata s.tr.rdataValid s) s t ∧
      frameWord out = some (encode (.writeFrame a v))) ∧
    (∃ t out r0 r1 rx, exec (.readFrame a) s = .next t ∧
      Transacted out [r0, r1, rx] (finished { dir := true, addr := 0b00#2 ++ a, wdata := 0 } rx true s) s t ∧
      frameWord out = some (encode (.readFrame a)))

/-- R84: with the strobe on every tick, `done` is seen `54 + P_CS_SETUP + P_CS_HOLD` ticks after the acceptance. -/
def Obligations.DoneIsSeenOnTheCountedTick : Prop :=
  ∀ (a v : Byte) (s : State), s.env.all (fun i => calm i && i.edgeTick) = true →
    53 + s.par.csSetup + s.par.csHold ≤ s.env.length →
    (takesRequest { dir := false, addr := a, wdata := v } s = true →
      ∃ t, exec (.writeReg a v) s = .next t ∧ t.tr.done = true ∧ t.now = s.now + 54 + s.par.csSetup + s.par.csHold) ∧
    (takesRequest { dir := true, addr := a, wdata := v } s = true →
      ∃ t, exec (.readReg a v) s = .next t ∧ t.tr.done = true ∧ t.now = s.now + 54 + s.par.csSetup + s.par.csHold)

/-- R38: address bits 7:6 have no effect at all. -/
def Obligations.AddressTopBitsHaveNoEffect : Prop :=
  ∀ (a b v : Byte) (s : State), s.par.requester = .host → a &&& 0x3F#8 = b &&& 0x3F#8 →
    exec (.writeReg a v) s = exec (.writeReg b v) s ∧ exec (.readReg a v) s = exec (.readReg b v) s

/-- R79: the payload field of a read has no effect: two reads that differ in it differ in nothing but `t_wdata`. -/
def Obligations.ReadPayloadFieldHasNoEffect : Prop :=
  ∀ (a v w : Byte) (s t : State), hostReady s = true → s.env.all calm = true →
    exec (.readReg a v) s = .next t → exec (.readReg a w) s = .next { t with tr := { t.tr with wdata := w } }

/-- The frame of the four request forms, the two frames as the requests they stand for (DEDUCED, log 11): a write or read that is accepted leaves the parameters, the sequencer, the
requester's program and everything attached alone, a write leaves `rdata` alone, and the peer's space changes at the address
sent, by a write, and nowhere else. -/
def Obligations.RequestsLeaveTheRestAlone : Prop :=
  ∀ (s t : State) (a v : Byte) (c : Addr), hostReady s = true → s.env.all calm = true →
    ((exec (.writeReg a v) s = .next t ∨ exec (.readReg a v) s = .next t ∨ exec (.writeFrame c v) s = .next t ∨
        exec (.readFrame c) s = .next t) →
      t.par = s.par ∧ t.sq = s.sq ∧ t.prog = s.prog ∧ t.slot = s.slot ∧ t.attached = s.attached) ∧
    ((exec (.writeReg a v) s = .next t ∨ exec (.writeFrame c v) s = .next t) →
      t.tr.rdata = s.tr.rdata ∧ t.tr.rdataValid = s.tr.rdataValid) ∧
    (exec (.writeReg a v) s = .next t →
      ∀ k, k ≠ (maskAddr a).toNat → Memory.read t.peer.mem k = Memory.read s.peer.mem k) ∧
    (exec (.writeFrame c v) s = .next t →
      ∀ k, k ≠ c.toNat → Memory.read t.peer.mem k = Memory.read s.peer.mem k) ∧
    ((exec (.readReg a v) s = .next t ∨ exec (.readFrame c) s = .next t) →
      ∀ k, Memory.read t.peer.mem k = Memory.read s.peer.mem k)

/-- The frame of SHIFT, the command bytes and the dummy byte: of the transport only the state, the index and `done` move;
the sequencer of a host's block stands; the peer's space changes only where the reference peer takes the third byte of a
write, at its own address. -/
def Obligations.ExchangesLeaveTheRestAlone : Prop :=
  ∀ (i : Instr) (s t : State) (tx : Byte) (a : Addr),
    (i = .shift tx ∨ i = .cmdWrite a ∨ i = .cmdRead a ∨ i = .dummy) →
    s.inp.rst = false → s.env.all calm = true → exec i s = .next t →
      t.tr = { s.tr with state := t.tr.state, idx := t.tr.idx, done := t.tr.done } ∧
      t.par = s.par ∧ t.slot = s.slot ∧ t.attached = s.attached ∧
      (s.par.requester = .host → t.sq = s.sq) ∧
      ∀ k, (s.attached = .reference ∧ s.peer.n = 2 ∧ s.peer.dir = false → k ≠ s.peer.a.toNat) →
        Memory.read t.peer.mem k = Memory.read s.peer.mem k

/-- With the reference peer attached (R48), a completed WRITE_REG, a host's or the sequencer's own, leaves its payload in
the addressed register. -/
def Obligations.WriteReachesTheReferencePeer : Prop :=
  ∀ (a v : Byte) (s : State), takesRequest { dir := false, addr := a, wdata := v } s = true →
    s.attached = .reference → Memory.wf s.peer.mem = true →
    s.env.all calm = true → 53 + s.par.csSetup + s.par.csHold ≤ strobes s.env →
    ∃ t, exec (.writeReg a v) s = .next t ∧ t.tr.done = true ∧ Memory.read t.peer.mem (maskAddr a).toNat = v

/-- With the reference peer attached (R48), a completed READ_REG returns the addressed register and changes none. -/
def Obligations.ReadReturnsTheReferencePeersRegister : Prop :=
  ∀ (a v : Byte) (s : State), hostReady s = true → s.attached = .reference → s.env.all calm = true →
    53 + s.par.csSetup + s.par.csHold ≤ strobes s.env →
    ∃ t, exec (.readReg a v) s = .next t ∧ t.tr.done = true ∧ t.tr.rdataValid = true ∧
      t.tr.rdata = Memory.read s.peer.mem (maskAddr a).toNat ∧ t.peer.mem = s.peer.mem

/-- SHIFT, CMD_WRITE, CMD_READ and DUMMY of a byte the transport does not start in this tick, or not in that format's place
of the frame, are refused as `notIssued`. R56 and R71 say that no such byte is ever started; the refusal is the model's
inference from them (DEDUCED, log 10), and that it comes before the faults of a tick is its choice (DESIGN CHOICE, log 9). -/
def Obligations.UnissuedBytesAreRefused : Prop :=
  ∀ (tx : Byte) (a : Addr) (s : State), s.inp.rst = false → s.sh.run = false →
    (startByte s ≠ some tx → exec (.shift tx) s = .refused .notIssued) ∧
    (startByte s ≠ some (0b00#2 ++ a) ∨ s.tr.state ≠ .setup → exec (.cmdWrite a) s = .refused .notIssued) ∧
    (startByte s ≠ some (0b10#2 ++ a) ∨ s.tr.state ≠ .setup → exec (.cmdRead a) s = .refused .notIssued) ∧
    (startByte s ≠ some 0xFF#8 ∨ s.tr.state ≠ .xfer ∨ (s.tr.idx ≠ 0 ∧ s.tr.dir = false) →
      exec .dummy s = .refused .notIssued)

/-- R58: the two reserved command bytes have no meaning, in any state. -/
def Obligations.ReservedCommandsAreRefused : Prop :=
  ∀ (a : Addr) (s : State), exec (.cmdWriteAi a) s = .refused .reservedCommand ∧
    exec (.cmdReadAi a) s = .refused .reservedCommand

/-! The Initialization Sequencer (43_init_sequencer.md) -/

/-- R86: INIT arms a fresh sequencer, and completes so, where without the pulse the sequencer stands (R109); anywhere else
the pulse is ignored: the tick is the one without it. With a host's build there is no sequencer to arm (introduction of
43_init_sequencer.md; DEDUCED, log 18). -/
def Obligations.InitArmsOnce : Prop :=
  ∀ s : State,
    (s.par.requester = .sequencer → s.sq.state = .unconfigured → s.sq.armed = false → undisturbed s = true →
      ∃ t u, exec .init s = .next t ∧ t.sq = { s.sq with armed := true, settle := 0 } ∧
        tick { s with inp := { s.inp with initGo := false } } = .next u ∧ u.sq = s.sq ∧ t = { u with sq := t.sq }) ∧
    (¬(s.par.requester = .sequencer ∧ s.sq.state = .unconfigured ∧ s.sq.armed = false) →
      exec .init s = tick { s with inp := { s.inp with initGo := false } })

/-- R102: with `P_REQUESTER = SEQUENCER` no external agent can make a request: what the request pins carry has no effect. -/
def Obligations.SequencerBuildHasNoRequestPins : Prop :=
  ∀ (s : State) (r : Request), s.par.requester = .sequencer → tick (present r s) = tick s

/-- R87: the settle delay counts ticks with `pins_ready = 1`, and after `P_SETTLE_DELAY` of them `CONFIGURING` begins. -/
def Obligations.SettleDelayCountsReadyTicks : Prop :=
  ∀ s : State, undisturbed s = true → s.par.requester = .sequencer → s.sq.state = .unconfigured → s.sq.armed = true →
    ∃ t, tick s = .next t ∧
      (s.inp.pinsReady = true → s.sq.settle < s.par.settleDelay → t.sq = { s.sq with settle := s.sq.settle + 1 }) ∧
      (s.inp.pinsReady = true → s.par.settleDelay ≤ s.sq.settle →
        t.sq = { s.sq with state := .configuring, step := false, issued := false }) ∧
      (s.inp.pinsReady = false → t.sq = s.sq)

/-- R88, R89: what the sequencer puts on the port, in every state. -/
def Obligations.SequencerDrivesItsTwoWrites : Prop :=
  ∀ s : State, s.par.requester = .sequencer →
    (portValid s = true ↔ s.sq.state = .configuring ∧ s.sq.issued = false) ∧
    (s.sq.step = false → portRequest s = { dir := false, addr := 0x03#8, wdata := 0x14#8 } ∧
      requestWord (portRequest s) = 0x00314#17) ∧
    (s.sq.step = true → portRequest s = { dir := false, addr := 0x02#8, wdata := 0x02#8 } ∧
      requestWord (portRequest s) = 0x00202#17)

/-- R90, R91: the write is marked issued in the tick that accepts it; its `done` leads to the second write, then to
`PARKED`; without them nothing of the sequencer changes. -/
def Obligations.ConfiguringIssuesThenMovesOn : Prop :=
  ∀ s : State, undisturbed s = true → s.par.requester = .sequencer → s.sq.state = .configuring →
    ∃ t, tick s = .next t ∧
      (s.sq.issued = false → s.tr.state = .idle → t.sq = { s.sq with issued := true } ∧ t.tr.state = .setup) ∧
      (s.sq.issued = false → s.tr.state ≠ .idle → t.sq = s.sq) ∧
      (s.sq.issued = true → s.tr.done = true → s.sq.step = false → t.sq = { s.sq with step := true, issued := false }) ∧
      (s.sq.issued = true → s.tr.done = true → s.sq.step = true → t.sq = { s.sq with state := .parked, issued := false }) ∧
      (s.sq.issued = true → s.tr.done = false → t.sq = s.sq)

/-- R92: no step leaves `PARKED` without a reset, and with the transport idle no step puts anything on the bus. -/
def Obligations.ParkedIsTerminal : Prop :=
  ∀ s t : State, s.sq.state = .parked → s.inp.rst = false → s.env.all (fun i => !i.rst) = true → step s = .next t →
    t.sq = s.sq ∧
    (s.par.requester = .sequencer → s.tr.state = .idle →
      t.trace = s.trace ∧ t.tr.state = .idle ∧ sleepReq t = true)

/-- R93, R94: from reset, with `init_go` in the first tick, exactly the two writes appear on the bus, in order, whatever
further pulses come, and after the counted number of ticks the sequencer is parked, at every value of the parameters. -/
def Obligations.InitializationWritesTwiceThenParks : Prop :=
  ∀ (p : Params) (d : ResetDraw) (i : Inputs) (env : List Inputs), p.requester = .sequencer →
    i.initGo = true → calm i = true → env.all (fun j => calm j && j.edgeTick) = true →
    p.settleDelay + 111 + 2 * p.csSetup + 2 * p.csHold + p.csIdle ≤ env.length →
    ∃ t, runTicks (p.settleDelay + 112 + 2 * p.csSetup + 2 * p.csHold + p.csIdle) { State.launch p d i with env := env }
        = .next t ∧
      t.sq.state = .parked ∧ frames p.cpha t.trace = [[0x03#8, 0xFF#8, 0x14#8], [0x02#8, 0xFF#8, 0x02#8]] ∧
      (windows t.trace).length = 2

/-! Reset, faults and invariants (10_state.md, 60_exceptions.md, 70_reset_and_hazards.md) -/

/-- R28, R100 item 1, R107: in a tick with `rst = 1` every instruction the block takes gives way to the reset, which sets
every register the table of R107 gives a value, deasserts chip-select on the trace if it was asserted, and gives no `done`;
the unspecified registers are free, and the peer keeps its state. -/
def Obligations.ResetOverridesEveryInstruction : Prop :=
  ∀ (s : State) (i : Instr), s.inp.rst = true → i.wf = true →
    ∃ t, exec i s = .next t ∧ tick s = .next t ∧
      t.tr.state = .idle ∧ t.tr.wait = 0 ∧ t.tr.csAsserted = false ∧ t.tr.rdataValid = false ∧ t.tr.done = false ∧
      t.sh.cnt = 0 ∧ t.sh.ovf = false ∧ t.sh.run = false ∧ t.sh.sclk = s.par.cpol ∧
      t.sq = { state := .unconfigured, armed := false, settle := 0, step := false, issued := false } ∧
      reqReady t = true ∧ busy t = false ∧ sleepReq t = false ∧ csPin t = (!s.par.csActiveLevel) ∧ t.par = s.par ∧ t.peer = s.peer ∧
      t.trace = s.trace ++ (if s.tr.csAsserted = true then [.csDeassert] else [])

/-- R107, R108: the launch state of every build, at every draw, has every value of the table and its outputs, and keeps the
invariants of R32, the canonical form of the peer's space and the empty, deasserted trace. -/
def Obligations.LaunchStateIsTheResetTable : Prop :=
  ∀ (p : Params) (d : ResetDraw) (i : Inputs),
    invariants (State.launch p d i) = true ∧ Memory.wf (State.launch p d i).peer.mem = true ∧
    bracketed false (State.launch p d i).trace = some (State.launch p d i).tr.csAsserted ∧
    exchangeAlive (State.launch p d i) = true ∧
    (State.launch p d i).tr.state = .idle ∧ (State.launch p d i).tr.wait = 0 ∧
    (State.launch p d i).tr.csAsserted = false ∧ csPin (State.launch p d i) = (!p.csActiveLevel) ∧
    (State.launch p d i).tr.rdataValid = false ∧ (State.launch p d i).tr.done = false ∧
    (State.launch p d i).sh.cnt = 0 ∧ (State.launch p d i).sh.ovf = false ∧ (State.launch p d i).sh.run = false ∧
    (State.launch p d i).sh.sclk = p.cpol ∧
    (State.launch p d i).sq = { state := .unconfigured, armed := false, settle := 0, step := false, issued := false } ∧
    reqReady (State.launch p d i) = true ∧ busy (State.launch p d i) = false ∧ sleepReq (State.launch p d i) = false

/-- R32: every tick, and so every step, keeps the seven invariants. -/
def Obligations.EveryStepKeepsTheInvariants : Prop :=
  ∀ s t : State, invariants s = true → (step s = .next t ∨ tick s = .next t) → invariants t = true

/-- R80: every tick and every step keeps the trace bracketed: each transaction one contiguous window, windows never overlap, every clock
edge and sample inside one, and the window is open exactly while chip-select is asserted. -/
def Obligations.EveryStepKeepsTheWindows : Prop :=
  ∀ s t : State, bracketed false s.trace = some s.tr.csAsserted → (step s = .next t ∨ tick s = .next t) →
    bracketed false t.trace = some t.tr.csAsserted

/-- Every tick and every step keeps the peer's space in its canonical form (addresses 0 to 63 of R33 strictly rising, no entry zero). -/
def Obligations.EveryStepKeepsTheSpaceCanonical : Prop :=
  ∀ s t : State, Memory.wf s.peer.mem = true → (step s = .next t ∨ tick s = .next t) → Memory.wf t.peer.mem = true

/-- In `XFER` an exchange always runs or has completed (R12), so that only a missing strobe holds the block there. -/
def Obligations.EveryStepKeepsTheExchangeAlive : Prop :=
  ∀ s t : State, exchangeAlive s = true → (step s = .next t ∨ tick s = .next t) → exchangeAlive t = true

/-- Exactly when a tick without reset stops, and with which model fault of R97. What the spec says is that each duty broken
is its fault (R97, R98, R112). The model's own are: the order where several are broken (DESIGN CHOICE, log 9), that a read
of `rdata` with `rdata_valid = 0` faults in a SEQUENCER build too (DESIGN CHOICE, log 14), and that the invariants are
tested in every such tick, on the pre-tick state (DEDUCED, log 19). -/
def Obligations.TickFaultsExactlyWhenADutyIsBroken : Prop :=
  ∀ s : State, s.attached ≠ .reference → s.inp.rst = false →
    (tick s = .fault .invariantBroken ↔ invariants s = false) ∧
    (tick s = .fault .pinsReadyDropped ↔ invariants s = true ∧ s.pinsSeen = true ∧ s.inp.pinsReady = false) ∧
    (tick s = .fault .rdataUnwritten ↔ invariants s = true ∧ (s.pinsSeen = true → s.inp.pinsReady = true) ∧
      s.inp.takeRdata = true ∧ s.tr.rdataValid = false) ∧
    ((∃ t, tick s = .next t) ↔ undisturbed s = true)

/-- R31: every register has its own writer. In a tick without reset: `t_state` and `t_wait` move only as their state's rule
says, and forward; the request latch only at an acceptance (R13); `t_idx` there and at an acknowledge; `rdata` only at the
acknowledge of a read's third exchange (R17); `cs_asserted` only where chip-select rises or falls (R16); `done` is 1 only
after the tick that deasserts (R18); the shifter only by `ShStart`, an edge or an acknowledge, so that outside `SETUP` and
`XFER` every register of it, `sdo` and `sh_sr` among them, holds (R23, R66); the sequencer only by its own rules, forward;
the parameters never. The bit behind R112 is set by a tick with `pins_ready = 1` and then stays. -/
def Obligations.EachRegisterHasItsWriter : Prop :=
  ∀ s t : State, s.inp.rst = false → tick s = .next t →
    (t.tr.state = s.tr.state ∨ t.tr.state = stateAfter s.tr.state) ∧
    (s.tr.state ≠ .idle → s.tr.state ≠ .xfer → 0 < s.tr.wait →
      t.tr.state = s.tr.state ∧ t.tr.wait = s.tr.wait - 1) ∧
    (s.tr.state = .idle ∨ s.tr.state = .xfer → t.tr.state = s.tr.state → t.tr.wait = s.tr.wait) ∧
    (accepting s = false → t.tr.dir = s.tr.dir ∧ t.tr.addr = s.tr.addr ∧ t.tr.wdata = s.tr.wdata) ∧
    (accepting s = false → acknowledging s = false → t.tr.idx = s.tr.idx) ∧
    (¬(acknowledging s = true ∧ s.tr.idx = 2 ∧ s.tr.dir = true) →
      t.tr.rdata = s.tr.rdata ∧ t.tr.rdataValid = s.tr.rdataValid) ∧
    (s.tr.rdataValid = true → t.tr.rdataValid = true) ∧
    (accepting s = false → deasserting s = false → t.tr.csAsserted = s.tr.csAsserted) ∧
    (t.tr.done = true ↔ deasserting s = true) ∧
    (edgeFires s = false → t.sh.sclk = s.sh.sclk ∧ t.sh.rxbit = s.sh.rxbit) ∧
    (startByte s = none → edgeFires s = false →
      t.sh.sr = s.sh.sr ∧ t.sh.cnt = s.sh.cnt ∧ t.sh.run = s.sh.run ∧ t.sh.sdo = s.sh.sdo) ∧
    (s.sh.ovf = false → t.sh.ovf = true → edgeFires s = true ∧ s.sh.cnt = 15) ∧
    (s.sh.ovf = true → t.sh.ovf = false → acknowledging s = true) ∧
    (s.tr.state ≠ .setup → s.tr.state ≠ .xfer → t.sh = s.sh) ∧
    (t.sq.state = s.sq.state ∨ t.sq.state = sequenceAfter s.sq.state) ∧
    (s.sq.state = .unconfigured → s.sq.armed = false → s.inp.initGo = false → t.sq = s.sq) ∧
    (s.par.requester = .host → t.sq = s.sq) ∧
    t.pinsSeen = (s.pinsSeen || s.inp.pinsReady) ∧ t.par = s.par

/-- R16, R32 item 1: at every state that keeps the invariants the pin is at its active level exactly in `SETUP`, `XFER` and
`HOLD`, and with the shifter idle the clock line is at `P_CPOL` (R22). -/
def Obligations.PinsFollowTheTransport : Prop :=
  ∀ s : State, invariants s = true →
    (csPin s = s.par.csActiveLevel ↔ s.tr.state = .setup ∨ s.tr.state = .xfer ∨ s.tr.state = .hold) ∧
    (s.sh.run = false → s.sh.sclk = s.par.cpol)

/-- R60, R98: a host takes the result of a read where its `done = 1` is seen, and it is `rdata`. -/
def Obligations.HostTakesTheResultAtDone : Prop :=
  ∀ s : State, undisturbed s = true → s.par.requester = .host → s.tr.done = true → s.tr.rdataValid = true →
    ∃ t, tick s = .next t ∧
      (s.tr.dir = true → t.results = s.results ++ [s.tr.rdata]) ∧
      (s.tr.dir = false → s.inp.takeRdata = false → t.results = s.results)
end

