-- ==== Sys2Proof/Laws/Memory.lean ====
section
/-! SUPPORT. The peer's register space: reads after writes, and that every operation keeps the canonical form. -/

namespace Sys2Proof.Machine

theorem memory_read_insert_same (m : Memory) (a : Nat) (v : Byte) : Memory.read (Memory.insert m a v) a = v := by
  induction m with
  | nil => simp [Memory.insert, Memory.read]
  | cons c rest ih =>
    obtain ⟨k, b⟩ := c
    simp only [Memory.insert]
    split
    · simp [Memory.read]
    · split
      · simp [Memory.read]
      · rw [Memory.read, if_neg (by omega), ih]

theorem memory_read_insert_other (m : Memory) (a k : Nat) (v : Byte) (h : k ≠ a) :
    Memory.read (Memory.insert m a v) k = Memory.read m k := by
  induction m with
  | nil => simp [Memory.insert, Memory.read, h.symm]
  | cons c rest ih =>
    obtain ⟨j, b⟩ := c
    simp only [Memory.insert]
    split
    · rw [Memory.read, if_neg h.symm]
    · split
      · next hj => subst hj; rw [Memory.read, if_neg h.symm, Memory.read, if_neg h.symm]
      · simp only [Memory.read, ih]

theorem memory_read_erase_other (m : Memory) (a k : Nat) (h : k ≠ a) :
    Memory.read (Memory.erase m a) k = Memory.read m k := by
  induction m with
  | nil => rfl
  | cons c rest ih =>
    obtain ⟨j, b⟩ := c
    simp only [Memory.erase]
    split
    · next hj => subst hj; rw [Memory.read, if_neg h.symm]
    · simp only [Memory.read, ih]

/-- A write leaves every other register alone. -/
theorem memory_read_write_other (m : Memory) (a k : Nat) (v : Byte) (h : k ≠ a) :
    Memory.read (Memory.write m a v) k = Memory.read m k := by
  unfold Memory.write
  split
  · exact memory_read_erase_other m a k h
  · exact memory_read_insert_other m a k v h

theorem memory_wf_cons {k : Nat} {b : Byte} {rest : Memory} :
    Memory.wf ((k, b) :: rest) = true ↔
      k < 64 ∧ b ≠ 0 ∧ (∀ c ∈ rest, k < c.1) ∧ Memory.wf rest = true := by
  simp only [Memory.wf, Bool.and_eq_true, decide_eq_true_eq, List.all_eq_true]
  tauto

theorem memory_read_of_all_above (m : Memory) (a : Nat) (h : ∀ c ∈ m, a < c.1) : Memory.read m a = 0 := by
  induction m with
  | nil => rfl
  | cons c rest ih =>
    obtain ⟨k, b⟩ := c
    have hk : a < k := h (k, b) (by simp)
    rw [Memory.read, if_neg (by omega)]
    exact ih (fun c hc => h c (by simp [hc]))

theorem memory_read_erase_same (m : Memory) (a : Nat) (hm : Memory.wf m = true) :
    Memory.read (Memory.erase m a) a = 0 := by
  induction m with
  | nil => rfl
  | cons c rest ih =>
    obtain ⟨k, b⟩ := c
    obtain ⟨_, _, hlt, hrest⟩ := memory_wf_cons.mp hm
    simp only [Memory.erase]
    split
    · next hk => subst hk; exact memory_read_of_all_above rest k hlt
    · next hk => rw [Memory.read, if_neg hk, ih hrest]

/-- A read after a write of the same register gives the value written. -/
theorem memory_read_write_same (m : Memory) (a : Nat) (v : Byte) (hm : Memory.wf m = true) :
    Memory.read (Memory.write m a v) a = v := by
  unfold Memory.write
  split
  · next hv => rw [hv]; exact memory_read_erase_same m a hm
  · exact memory_read_insert_same m a v

theorem memory_mem_insert (m : Memory) (a : Nat) (v : Byte) (c : Host.Cell) (h : c ∈ Memory.insert m a v) :
    c = (a, v) ∨ c ∈ m := by
  induction m with
  | nil => simpa [Memory.insert] using h
  | cons d rest ih =>
    obtain ⟨k, b⟩ := d
    simp only [Memory.insert] at h
    split at h
    · simpa using h
    · split at h <;> simp only [List.mem_cons] at h ⊢
      · tauto
      · rcases h with h | h
        · tauto
        · have := ih h; tauto

theorem memory_mem_erase (m : Memory) (a : Nat) (c : Host.Cell) (h : c ∈ Memory.erase m a) : c ∈ m := by
  induction m with
  | nil => exact h
  | cons d rest ih =>
    obtain ⟨k, b⟩ := d
    simp only [Memory.erase] at h
    split at h
    · exact List.mem_cons_of_mem _ h
    · rcases List.mem_cons.mp h with h | h
      · exact h ▸ List.mem_cons_self
      · exact List.mem_cons_of_mem _ (ih h)

theorem memory_wf_erase (m : Memory) (a : Nat) (hm : Memory.wf m = true) : Memory.wf (Memory.erase m a) = true := by
  induction m with
  | nil => rfl
  | cons d rest ih =>
    obtain ⟨k, b⟩ := d
    obtain ⟨hk, hb, hlt, hrest⟩ := memory_wf_cons.mp hm
    simp only [Memory.erase]
    split
    · exact hrest
    · exact memory_wf_cons.mpr ⟨hk, hb, fun c hc => hlt c (memory_mem_erase rest a c hc), ih hrest⟩

theorem memory_wf_insert (m : Memory) (a : Nat) (v : Byte) (ha : a < 64) (hv : v ≠ 0) (hm : Memory.wf m = true) :
    Memory.wf (Memory.insert m a v) = true := by
  induction m with
  | nil => exact memory_wf_cons.mpr ⟨ha, hv, by simp, rfl⟩
  | cons d rest ih =>
    obtain ⟨k, b⟩ := d
    obtain ⟨hk, hb, hlt, hrest⟩ := memory_wf_cons.mp hm
    simp only [Memory.insert]
    split
    · next hak =>
      refine memory_wf_cons.mpr ⟨ha, hv, fun c hc => ?_, hm⟩
      rcases List.mem_cons.mp hc with hc | hc
      · subst hc; exact hak
      · have := hlt c hc; omega
    · split
      · next hak =>
        subst hak
        exact memory_wf_cons.mpr ⟨ha, hv, hlt, hrest⟩
      · next h1 h2 =>
        refine memory_wf_cons.mpr ⟨hk, hb, fun c hc => ?_, ih hrest⟩
        rcases memory_mem_insert rest a v c hc with hc | hc
        · subst hc; show k < a; omega
        · exact hlt c hc

/-- Every write of an address of the space keeps the canonical form. -/
theorem memory_wf_write (m : Memory) (a : Nat) (v : Byte) (ha : a < 64) (hm : Memory.wf m = true) :
    Memory.wf (Memory.write m a v) = true := by
  unfold Memory.write
  split
  · exact memory_wf_erase m a hm
  · next hv => exact memory_wf_insert m a v ha hv hm

/-- The space of the fresh peer, and so of the state after reset, is in the canonical form. -/
theorem memory_wf_reset : Memory.wf State.reset.peer.mem = true := rfl

/-- A byte that reaches the reference peer keeps the canonical form: its address has 6 bits. -/
theorem peerByte_keeps_wf (p : RefPeer) (b : Byte) (h : Memory.wf p.mem = true) :
    Memory.wf (peerByte p b).mem = true := by
  unfold peerByte
  split
  · exact h
  · split
    · exact memory_wf_write p.mem p.a.toNat b p.a.isLt h
    · exact h

theorem peerBit_keeps_wf (p : RefPeer) (x : Bool) (h : Memory.wf p.mem = true) :
    Memory.wf (peerBit p x).mem = true := by
  unfold peerBit
  split
  · exact peerByte_keeps_wf _ _ h
  · exact h

/-- Whatever a tick does at the peer, it keeps the canonical form. -/
theorem peerNext_keeps_wf (s : State) (h : Memory.wf s.peer.mem = true) : Memory.wf (peerNext s).mem = true := by
  unfold peerNext
  split
  · split
    · exact h
    · split
      · exact peerBit_keeps_wf _ _ h
      · exact h
  · exact h
  · exact h

end Sys2Proof.Machine
end

