-- ==== Sys2Proof/Laws/State.lean ====
section
/-! SUPPORT. One lemma per field per update of the state, each by rfl: no later proof unfolds a record update. -/

namespace Sys2Proof.Machine

/-! `present`: only the inputs. -/
@[simp] theorem present_par (r : Request) (s : State) : (present r s).par = s.par := rfl
@[simp] theorem present_tr (r : Request) (s : State) : (present r s).tr = s.tr := rfl
@[simp] theorem present_sh (r : Request) (s : State) : (present r s).sh = s.sh := rfl
@[simp] theorem present_sq (r : Request) (s : State) : (present r s).sq = s.sq := rfl
@[simp] theorem present_inp (r : Request) (s : State) :
    (present r s).inp = { s.inp with reqValid := true, req := r } := rfl
@[simp] theorem present_pinsSeen (r : Request) (s : State) : (present r s).pinsSeen = s.pinsSeen := rfl
@[simp] theorem present_now (r : Request) (s : State) : (present r s).now = s.now := rfl
@[simp] theorem present_env (r : Request) (s : State) : (present r s).env = s.env := rfl
@[simp] theorem present_attached (r : Request) (s : State) : (present r s).attached = s.attached := rfl
@[simp] theorem present_peer (r : Request) (s : State) : (present r s).peer = s.peer := rfl
@[simp] theorem present_trace (r : Request) (s : State) : (present r s).trace = s.trace := rfl
@[simp] theorem present_prog (r : Request) (s : State) : (present r s).prog = s.prog := rfl
@[simp] theorem present_awaiting (r : Request) (s : State) : (present r s).awaiting = s.awaiting := rfl
@[simp] theorem present_results (r : Request) (s : State) : (present r s).results = s.results := rfl
@[simp] theorem present_slot (r : Request) (s : State) : (present r s).slot = s.slot := rfl

/-! `holdLow`: only the inputs. -/
@[simp] theorem holdLow_par (s : State) : (holdLow s).par = s.par := rfl
@[simp] theorem holdLow_tr (s : State) : (holdLow s).tr = s.tr := rfl
@[simp] theorem holdLow_sh (s : State) : (holdLow s).sh = s.sh := rfl
@[simp] theorem holdLow_sq (s : State) : (holdLow s).sq = s.sq := rfl
@[simp] theorem holdLow_inp (s : State) :
    (holdLow s).inp = { s.inp with reqValid := false, initGo := false } := rfl
@[simp] theorem holdLow_pinsSeen (s : State) : (holdLow s).pinsSeen = s.pinsSeen := rfl
@[simp] theorem holdLow_now (s : State) : (holdLow s).now = s.now := rfl
@[simp] theorem holdLow_env (s : State) : (holdLow s).env = s.env := rfl
@[simp] theorem holdLow_attached (s : State) : (holdLow s).attached = s.attached := rfl
@[simp] theorem holdLow_peer (s : State) : (holdLow s).peer = s.peer := rfl
@[simp] theorem holdLow_trace (s : State) : (holdLow s).trace = s.trace := rfl
@[simp] theorem holdLow_prog (s : State) : (holdLow s).prog = s.prog := rfl
@[simp] theorem holdLow_awaiting (s : State) : (holdLow s).awaiting = s.awaiting := rfl
@[simp] theorem holdLow_results (s : State) : (holdLow s).results = s.results := rfl
@[simp] theorem holdLow_slot (s : State) : (holdLow s).slot = s.slot := rfl

/-! `elapse`: the tick number, the inputs and the schedule. -/
@[simp] theorem elapse_par (s : State) : (elapse s).par = s.par := rfl
@[simp] theorem elapse_tr (s : State) : (elapse s).tr = s.tr := rfl
@[simp] theorem elapse_sh (s : State) : (elapse s).sh = s.sh := rfl
@[simp] theorem elapse_sq (s : State) : (elapse s).sq = s.sq := rfl
@[simp] theorem elapse_inp (s : State) : (elapse s).inp = nextInputs s := rfl
@[simp] theorem elapse_pinsSeen (s : State) : (elapse s).pinsSeen = s.pinsSeen := rfl
@[simp] theorem elapse_now (s : State) : (elapse s).now = s.now + 1 := rfl
@[simp] theorem elapse_env (s : State) : (elapse s).env = s.env.tail := rfl
@[simp] theorem elapse_attached (s : State) : (elapse s).attached = s.attached := rfl
@[simp] theorem elapse_peer (s : State) : (elapse s).peer = s.peer := rfl
@[simp] theorem elapse_trace (s : State) : (elapse s).trace = s.trace := rfl
@[simp] theorem elapse_prog (s : State) : (elapse s).prog = s.prog := rfl
@[simp] theorem elapse_awaiting (s : State) : (elapse s).awaiting = s.awaiting := rfl
@[simp] theorem elapse_results (s : State) : (elapse s).results = s.results := rfl
@[simp] theorem elapse_slot (s : State) : (elapse s).slot = s.slot := rfl

/-! `advance`: every register from the pre-tick state. -/
@[simp] theorem advance_par (s : State) : (advance s).par = s.par := rfl
@[simp] theorem advance_tr (s : State) : (advance s).tr = transportNext s := rfl
@[simp] theorem advance_sh (s : State) : (advance s).sh = shifterNext s := rfl
@[simp] theorem advance_sq (s : State) : (advance s).sq = sequencerNext s := rfl
@[simp] theorem advance_inp (s : State) : (advance s).inp = nextInputs s := rfl
@[simp] theorem advance_pinsSeen (s : State) : (advance s).pinsSeen = (s.pinsSeen || s.inp.pinsReady) := rfl
@[simp] theorem advance_now (s : State) : (advance s).now = s.now + 1 := rfl
@[simp] theorem advance_env (s : State) : (advance s).env = s.env.tail := rfl
@[simp] theorem advance_attached (s : State) : (advance s).attached = s.attached := rfl
@[simp] theorem advance_peer (s : State) : (advance s).peer = peerNext s := rfl
@[simp] theorem advance_trace (s : State) : (advance s).trace = s.trace ++ tickEvents s := rfl
@[simp] theorem advance_prog (s : State) : (advance s).prog = s.prog := rfl
@[simp] theorem advance_awaiting (s : State) : (advance s).awaiting = awaitingNext s := rfl
@[simp] theorem advance_results (s : State) : (advance s).results = resultsNext s := rfl
@[simp] theorem advance_slot (s : State) : (advance s).slot = s.slot := rfl

/-! `resetTick`: the table of R107. -/
@[simp] theorem resetTick_par (s : State) : (resetTick s).par = s.par := rfl
@[simp] theorem resetTick_tr (s : State) :
    (resetTick s).tr = Transport.afterReset (Config.resetDraw (s.now + 1)) := rfl
@[simp] theorem resetTick_sh (s : State) :
    (resetTick s).sh = Shifter.afterReset s.par (Config.resetDraw (s.now + 1)) := rfl
@[simp] theorem resetTick_sq (s : State) : (resetTick s).sq = Sequencer.afterReset := rfl
@[simp] theorem resetTick_inp (s : State) : (resetTick s).inp = nextInputs s := rfl
@[simp] theorem resetTick_pinsSeen (s : State) : (resetTick s).pinsSeen = false := rfl
@[simp] theorem resetTick_now (s : State) : (resetTick s).now = s.now + 1 := rfl
@[simp] theorem resetTick_env (s : State) : (resetTick s).env = s.env.tail := rfl
@[simp] theorem resetTick_attached (s : State) : (resetTick s).attached = s.attached := rfl
@[simp] theorem resetTick_peer (s : State) : (resetTick s).peer = s.peer := rfl
@[simp] theorem resetTick_trace (s : State) :
    (resetTick s).trace = s.trace ++ (if s.tr.csAsserted then [BusEvent.csDeassert] else []) := rfl
@[simp] theorem resetTick_prog (s : State) : (resetTick s).prog = s.prog := rfl
@[simp] theorem resetTick_awaiting (s : State) : (resetTick s).awaiting = awaitingNext s := rfl
@[simp] theorem resetTick_results (s : State) : (resetTick s).results = resultsNext s := rfl
@[simp] theorem resetTick_slot (s : State) : (resetTick s).slot = s.slot := rfl

/-! The registers after reset. -/
@[simp] theorem transport_afterReset_state (d : ResetDraw) : (Transport.afterReset d).state = .idle := rfl
@[simp] theorem transport_afterReset_wait (d : ResetDraw) : (Transport.afterReset d).wait = 0 := rfl
@[simp] theorem transport_afterReset_csAsserted (d : ResetDraw) : (Transport.afterReset d).csAsserted = false := rfl
@[simp] theorem transport_afterReset_rdataValid (d : ResetDraw) : (Transport.afterReset d).rdataValid = false := rfl
@[simp] theorem transport_afterReset_done (d : ResetDraw) : (Transport.afterReset d).done = false := rfl
@[simp] theorem shifter_afterReset_cnt (p : Params) (d : ResetDraw) : (Shifter.afterReset p d).cnt = 0 := rfl
@[simp] theorem shifter_afterReset_ovf (p : Params) (d : ResetDraw) : (Shifter.afterReset p d).ovf = false := rfl
@[simp] theorem shifter_afterReset_run (p : Params) (d : ResetDraw) : (Shifter.afterReset p d).run = false := rfl
@[simp] theorem shifter_afterReset_sclk (p : Params) (d : ResetDraw) : (Shifter.afterReset p d).sclk = p.cpol := rfl
@[simp] theorem sequencer_afterReset_state : Sequencer.afterReset.state = .unconfigured := rfl
@[simp] theorem sequencer_afterReset_issued : Sequencer.afterReset.issued = false := rfl

/-! `shStart` (R62). -/
@[simp] theorem shStart_sr (p : Params) (h : Shifter) (b : Byte) : (shStart p h b).sr = b := rfl
@[simp] theorem shStart_cnt (p : Params) (h : Shifter) (b : Byte) : (shStart p h b).cnt = 0 := rfl
@[simp] theorem shStart_ovf (p : Params) (h : Shifter) (b : Byte) : (shStart p h b).ovf = false := rfl
@[simp] theorem shStart_run (p : Params) (h : Shifter) (b : Byte) : (shStart p h b).run = true := rfl
@[simp] theorem shStart_rxbit (p : Params) (h : Shifter) (b : Byte) : (shStart p h b).rxbit = h.rxbit := rfl
@[simp] theorem shStart_sclk (p : Params) (h : Shifter) (b : Byte) : (shStart p h b).sclk = h.sclk := rfl
@[simp] theorem shStart_sdo (p : Params) (h : Shifter) (b : Byte) :
    (shStart p h b).sdo = if p.cpha then h.sdo else b.getLsbD 7 := rfl

/-! `countEdge` (R63). -/
@[simp] theorem countEdge_sr (h : Shifter) : (countEdge h).sr = h.sr := rfl
@[simp] theorem countEdge_cnt (h : Shifter) : (countEdge h).cnt = h.cnt + 1 := rfl
@[simp] theorem countEdge_run (h : Shifter) : (countEdge h).run = decide (h.cnt ≠ 15) := rfl
@[simp] theorem countEdge_ovf (h : Shifter) : (countEdge h).ovf = (decide (h.cnt = 15) || h.ovf) := rfl
@[simp] theorem countEdge_rxbit (h : Shifter) : (countEdge h).rxbit = h.rxbit := rfl
@[simp] theorem countEdge_sclk (h : Shifter) : (countEdge h).sclk = !h.sclk := rfl
@[simp] theorem countEdge_sdo (h : Shifter) : (countEdge h).sdo = h.sdo := rfl

/-! `shiftEdge` (R64, R65) leaves the counter, the flags and the clock to `countEdge`. -/
@[simp] theorem shiftEdge_cnt (c : Bool) (h : Shifter) (x : Bool) : (shiftEdge c h x).cnt = h.cnt := by
  unfold shiftEdge; split <;> rfl
@[simp] theorem shiftEdge_run (c : Bool) (h : Shifter) (x : Bool) : (shiftEdge c h x).run = h.run := by
  unfold shiftEdge; split <;> rfl
@[simp] theorem shiftEdge_ovf (c : Bool) (h : Shifter) (x : Bool) : (shiftEdge c h x).ovf = h.ovf := by
  unfold shiftEdge; split <;> rfl
@[simp] theorem shiftEdge_sclk (c : Bool) (h : Shifter) (x : Bool) : (shiftEdge c h x).sclk = h.sclk := by
  unfold shiftEdge; split <;> rfl

/-- `sdo` is not moved by the edge that samples (R64, R65). -/
theorem shiftEdge_sdo_of_sampling (c : Bool) (h : Shifter) (x : Bool) (hk : samplingEdge c h.cnt = true) :
    (shiftEdge c h x).sdo = h.sdo := by
  unfold shiftEdge
  unfold samplingEdge at hk
  cases c <;> cases hb : h.cnt.getLsbD 0 <;> simp_all

end Sys2Proof.Machine
end

