-- ==== Sys2Proof/Laws/Tick.lean ====
section
/-! SUPPORT. What a tick, the requester's drive, a run through the schedule and a step can do, each said once; and the
induction "every tick keeps P, so every step keeps P", packaged. -/

namespace Sys2Proof.Machine

/-- A tick that answers a next state was a reset tick, or an undisturbed tick in which all parts advanced. -/
theorem tick_next {s t : State} (h : tick s = .next t) :
    (s.inp.rst = true ∧ t = resetTick s) ∨ (undisturbed s = true ∧ t = advance s) := by
  unfold tick at h
  unfold undisturbed
  by_cases hr : s.inp.rst = true
  · left; simp_all
  · right
    simp only [hr] at h ⊢
    split at h
    · contradiction
    · split at h
      · exact absurd h (by simp)
      · split at h
        · exact absurd h (by simp)
        · split at h
          · exact absurd h (by simp)
          · split at h
            · exact absurd h (by simp)
            · cases hp : s.pinsSeen <;> cases hk : s.inp.takeRdata <;> simp_all

/-- An undisturbed tick advances. -/
theorem tick_of_undisturbed {s : State} (h : undisturbed s = true) : tick s = .next (advance s) := by
  unfold undisturbed at h
  simp only [Bool.and_eq_true, Bool.not_eq_true'] at h
  obtain ⟨⟨⟨⟨h1, h2⟩, h3⟩, h4⟩, h5⟩ := h
  simp [tick, h1, h2, h3, h4, h5]

/-- A reset tick resets. -/
theorem tick_of_rst {s : State} (h : s.inp.rst = true) : tick s = .next (resetTick s) := by
  simp [tick, h]

/-- An undisturbed tick is no reset tick. -/
theorem undisturbed_rst {s : State} (h : undisturbed s = true) : s.inp.rst = false := by
  unfold undisturbed at h; simp_all

/-- In an undisturbed tick the invariants of R32 hold. -/
theorem undisturbed_invariants {s : State} (h : undisturbed s = true) : invariants s = true := by
  unfold undisturbed at h; simp_all

/-- The invariants of R32, one by one. -/
theorem invariants_iff (s : State) : invariants s = true ↔
    s.tr.csAsserted = selecting s.tr.state ∧
    (s.sh.run = true → s.tr.state = .xfer) ∧
    (s.sh.ovf = true → s.sh.run = false ∧ s.tr.state = .xfer) ∧
    s.sh.sclk = (s.par.cpol ^^ s.sh.cnt.getLsbD 0) ∧
    (s.sh.run = false → s.sh.cnt = 0) ∧
    (s.tr.state ≠ .idle → s.tr.idx ≤ 2) ∧
    (s.sq.issued = true → s.sq.state = .configuring) := by
  unfold invariants invSelect invRun invOvf invClock invCount invIndex invIssued
  cases s.sh.run <;> cases s.sh.ovf <;> cases s.sq.issued <;> by_cases hi : s.tr.state = .idle <;> simp_all <;> tauto

/-- `startByte` answers a byte only at the end of `SETUP` and at an acknowledge of exchange 0 or 1 (R73, R74). -/
theorem startByte_some {s : State} {b : Byte} (h : startByte s = some b) :
    (s.tr.state = .setup ∧ s.tr.wait = 0 ∧ b = frameByte s.tr 0) ∨
    (s.tr.state = .xfer ∧ s.sh.ovf = true ∧ s.tr.idx < 2 ∧ b = frameByte s.tr (s.tr.idx + 1)) := by
  unfold startByte at h
  split at h
  · left; split at h <;> simp_all
  · right; split at h <;> simp_all
  all_goals simp at h

/-! The requester's drive moves only the inputs and the program. -/

/-- What `drive` may touch: two inputs' lines, the request, the program and its wait. -/
theorem drive_shape (s : State) :
    ∃ v g r p w, drive s =
      { s with inp := { s.inp with reqValid := v, initGo := g, req := r }, prog := p, awaiting := w } := by
  unfold drive
  split
  · exact ⟨_, _, _, _, _, rfl⟩
  · split
    all_goals first
      | (unfold driveRequest; split
         · exact ⟨_, _, _, _, _, rfl⟩
         · split <;> exact ⟨_, _, _, _, _, rfl⟩)
      | (split <;> exact ⟨_, _, _, _, _, rfl⟩)

@[simp] theorem drive_par (s : State) : (drive s).par = s.par := by
  obtain ⟨v, g, r, p, w, h⟩ := drive_shape s; rw [h]
@[simp] theorem drive_tr (s : State) : (drive s).tr = s.tr := by
  obtain ⟨v, g, r, p, w, h⟩ := drive_shape s; rw [h]
@[simp] theorem drive_sh (s : State) : (drive s).sh = s.sh := by
  obtain ⟨v, g, r, p, w, h⟩ := drive_shape s; rw [h]
@[simp] theorem drive_sq (s : State) : (drive s).sq = s.sq := by
  obtain ⟨v, g, r, p, w, h⟩ := drive_shape s; rw [h]
@[simp] theorem drive_rst (s : State) : (drive s).inp.rst = s.inp.rst := by
  obtain ⟨v, g, r, p, w, h⟩ := drive_shape s; rw [h]
@[simp] theorem drive_edgeTick (s : State) : (drive s).inp.edgeTick = s.inp.edgeTick := by
  obtain ⟨v, g, r, p, w, h⟩ := drive_shape s; rw [h]
@[simp] theorem drive_sdi (s : State) : (drive s).inp.sdi = s.inp.sdi := by
  obtain ⟨v, g, r, p, w, h⟩ := drive_shape s; rw [h]
@[simp] theorem drive_pinsReady (s : State) : (drive s).inp.pinsReady = s.inp.pinsReady := by
  obtain ⟨v, g, r, p, w, h⟩ := drive_shape s; rw [h]
@[simp] theorem drive_takeRdata (s : State) : (drive s).inp.takeRdata = s.inp.takeRdata := by
  obtain ⟨v, g, r, p, w, h⟩ := drive_shape s; rw [h]
@[simp] theorem drive_pinsSeen (s : State) : (drive s).pinsSeen = s.pinsSeen := by
  obtain ⟨v, g, r, p, w, h⟩ := drive_shape s; rw [h]
@[simp] theorem drive_now (s : State) : (drive s).now = s.now := by
  obtain ⟨v, g, r, p, w, h⟩ := drive_shape s; rw [h]
@[simp] theorem drive_env (s : State) : (drive s).env = s.env := by
  obtain ⟨v, g, r, p, w, h⟩ := drive_shape s; rw [h]
@[simp] theorem drive_attached (s : State) : (drive s).attached = s.attached := by
  obtain ⟨v, g, r, p, w, h⟩ := drive_shape s; rw [h]
@[simp] theorem drive_peer (s : State) : (drive s).peer = s.peer := by
  obtain ⟨v, g, r, p, w, h⟩ := drive_shape s; rw [h]
@[simp] theorem drive_trace (s : State) : (drive s).trace = s.trace := by
  obtain ⟨v, g, r, p, w, h⟩ := drive_shape s; rw [h]
@[simp] theorem drive_results (s : State) : (drive s).results = s.results := by
  obtain ⟨v, g, r, p, w, h⟩ := drive_shape s; rw [h]
@[simp] theorem drive_slot (s : State) : (drive s).slot = s.slot := by
  obtain ⟨v, g, r, p, w, h⟩ := drive_shape s; rw [h]

/-- While a host's program waits, it stands, outside a reset tick: `drive` is `holdLow`, or with no program and no wait of
its own leaves the pins. -/
theorem drive_of_waiting {s : State} (h : waiting s = true) (hr : s.inp.rst = false) :
    drive s = holdLow s ∨ (s.prog = [] ∧ blocked s = false ∧ drive s = s) := by
  unfold drive
  cases hp : s.prog with
  | nil => cases hb : blocked s <;> simp [hr]
  | cons st rest => cases st <;> simp [hr, driveRequest, h]

/-- While a host's program waits, nothing is struck off. -/
theorem drive_prog_of_waiting {s : State} (h : waiting s = true) : (drive s).prog = s.prog := by
  cases hr : s.inp.rst
  · rcases drive_of_waiting h hr with hd | ⟨_, _, hd⟩ <;> simp [hd]
  · simp [drive, hr]

/-- While a host's program waits, the wait is not begun anew. -/
theorem drive_awaiting_of_waiting {s : State} (h : waiting s = true) : (drive s).awaiting = s.awaiting := by
  cases hr : s.inp.rst
  · rcases drive_of_waiting h hr with hd | ⟨_, _, hd⟩ <;> simp [hd]
  · simp [drive, hr]

/-- A blocked host's program waits. -/
theorem waiting_of_blocked {s : State} (h : blocked s = true) : waiting s = true := by simp [waiting, h]

/-- A blocked host's program keeps the port low, and stands (R60). -/
theorem drive_of_blocked {s : State} (h : blocked s = true) (hr : s.inp.rst = false) : drive s = holdLow s := by
  rcases drive_of_waiting (waiting_of_blocked h) hr with hd | ⟨_, hb, _⟩
  · exact hd
  · simp [h] at hb

/-- The coming tick is undisturbed or not whatever the program drives. -/
@[simp] theorem drive_undisturbed (s : State) : undisturbed (drive s) = undisturbed s := by
  obtain ⟨v, g, r, p, w, h⟩ := drive_shape s; rw [h]; rfl

/-! Runs. -/

/-- What follows a next state. -/
@[simp] theorem andThen_next (s : State) (f : State → Host.Outcome State Fault Refusal) :
    andThen (.next s) f = f s := rfl

/-- A composed run that answers a next state had one in between. -/
theorem andThen_eq_next {o : Host.Outcome State Fault Refusal} {f : State → Host.Outcome State Fault Refusal}
    {t : State} (h : andThen o f = .next t) : ∃ s, o = .next s ∧ f s = .next t := by
  cases o with
  | next s => exact ⟨s, rfl, h⟩
  | fault r => simp [andThen] at h
  | refused r => simp [andThen] at h

/-- Whatever every tick keeps, running on through the schedule keeps. -/
theorem runOn_keeps (P : State → Prop) (stop : State → Bool) (hc : ∀ s t, P s → clock s = .next t → P t) :
    ∀ (fuel : List Inputs) (s t : State), P s → runOn stop fuel s = .next t → P t := by
  intro fuel
  induction fuel with
  | nil => intro s t hp h; simp only [runOn, Host.Outcome.next.injEq] at h; exact h ▸ hp
  | cons i rest ih =>
    intro s t hp h
    simp only [runOn] at h
    split at h
    · simp only [Host.Outcome.next.injEq] at h; exact h ▸ hp
    · obtain ⟨u, hu, ht⟩ := andThen_eq_next h
      exact ih u t (hc s u hp hu) ht

/-- A property that does not look at the inputs, the program and its wait, and the slot. -/
def IgnoresRequester (P : State → Prop) : Prop :=
  ∀ (s : State) (i : Inputs) (p : List Stmt) (a : Bool) (w : Option (Format × Nat)),
    P s → P { s with inp := i, prog := p, awaiting := a, slot := w }

theorem drive_keeps {P : State → Prop} (hi : IgnoresRequester P) {s : State} (h : P s) : P (drive s) := by
  obtain ⟨v, g, r, p, w, hd⟩ := drive_shape s
  rw [hd]
  exact hi s _ _ _ s.slot h

theorem clock_keeps {P : State → Prop} (hi : IgnoresRequester P) (ht : ∀ s t, P s → tick s = .next t → P t) :
    ∀ s t, P s → clock s = .next t → P t :=
  fun s t hp h => ht (drive s) t (drive_keeps hi hp) h

theorem transact_keeps {P : State → Prop} (hi : IgnoresRequester P) (ht : ∀ s t, P s → tick s = .next t → P t)
    (r : Request) (s t : State) (hp : P s) (h : transact r s = .next t) : P t := by
  have hpres : P (present r s) := hi s _ s.prog s.awaiting s.slot hp
  unfold transact at h
  split at h
  · obtain ⟨u, hu, hr⟩ := andThen_eq_next h
    exact runOn_keeps P _ (clock_keeps hi ht) _ u t (ht _ _ hpres hu) hr
  · exact ht _ _ hpres h

theorem exchange_keeps {P : State → Prop} (hi : IgnoresRequester P) (ht : ∀ s t, P s → tick s = .next t → P t)
    (place : Bool) (b : Byte) (s t : State) (hp : P s) (h : exchange place b s = .next t) : P t := by
  unfold exchange at h
  split at h
  · exact ht _ _ hp h
  · split at h
    · simp at h
    · split at h
      · obtain ⟨u, hu, hr⟩ := andThen_eq_next h
        exact runOn_keeps P _ (clock_keeps hi ht) _ u t (ht _ _ hp hu) hr
      · simp at h

/-- A request that answers a next state was accepted and ran on from there, or one tick passed with it on the port. -/
theorem transact_next {r : Request} {s t : State} (h : transact r s = .next t) :
    (s.inp.rst = false ∧ accepting (present r s) = true ∧ portRequest (present r s) = r ∧
      undisturbed (present r s) = true ∧ runOn transactionOver s.env (advance (present r s)) = .next t) ∨
    (¬(s.inp.rst = false ∧ accepting (present r s) = true ∧ portRequest (present r s) = r) ∧
      tick (present r s) = .next t) := by
  unfold transact at h
  split at h
  · next hc =>
    simp only [Bool.and_eq_true, Bool.not_eq_true', decide_eq_true_eq] at hc
    obtain ⟨⟨h1, h2⟩, h3⟩ := hc
    obtain ⟨u, hu, hr⟩ := andThen_eq_next h
    rcases tick_next hu with ⟨hrst, _⟩ | ⟨hun, rfl⟩
    · simp [h1] at hrst
    · exact .inl ⟨h1, h2, h3, hun, hr⟩
  · next hc =>
    refine .inr ⟨fun ⟨h1, h2, h3⟩ => hc ?_, h⟩
    simp only [h1, h2, h3]; simp

/-- An exchange that answers a next state was a reset tick, or its byte was started and it ran on from there. -/
theorem exchange_next {place : Bool} {b : Byte} {s t : State} (h : exchange place b s = .next t) :
    (s.inp.rst = true ∧ t = resetTick s) ∨
    (s.sh.run = false ∧ place = true ∧ startByte s = some b ∧ undisturbed s = true ∧
      runOn exchangeOver s.env (advance s) = .next t) := by
  unfold exchange at h
  split at h
  · next hr => rw [tick_of_rst hr] at h; exact .inl ⟨hr, by simpa using h.symm⟩
  · next hr =>
    split at h
    · simp at h
    · next hrun =>
      split at h
      · next hc =>
        simp only [Bool.and_eq_true, decide_eq_true_eq] at hc
        obtain ⟨u, hu, hru⟩ := andThen_eq_next h
        rcases tick_next hu with ⟨hrst, _⟩ | ⟨hun, rfl⟩
        · exact absurd hrst hr
        · exact .inr ⟨by simpa using hrun, hc.1, hc.2, hun, hru⟩
      · simp at h

/-- Whatever every tick keeps, every instruction keeps. -/
theorem exec_keeps {P : State → Prop} (hi : IgnoresRequester P) (ht : ∀ s t, P s → tick s = .next t → P t)
    (i : Instr) (s t : State) (hp : P s) (h : exec i s = .next t) : P t := by
  cases i with
  | writeReg a v => exact transact_keeps hi ht _ s t hp h
  | readReg a v => exact transact_keeps hi ht _ s t hp h
  | shift tx => exact exchange_keeps hi ht _ _ s t hp h
  | init => exact ht _ _ (hi s _ s.prog s.awaiting s.slot hp) h
  | cmdWrite a => exact exchange_keeps hi ht _ _ s t hp h
  | cmdRead a => exact exchange_keeps hi ht _ _ s t hp h
  | cmdWriteAi a => simp [exec, execCmdWriteAi] at h
  | cmdReadAi a => simp [exec, execCmdReadAi] at h
  | dummy => exact exchange_keeps hi ht _ _ s t hp h
  | writeFrame a v => exact transact_keeps hi ht _ s t hp h
  | readFrame a => exact transact_keeps hi ht _ s t hp h

/-- A step that answers a next state ran an instruction or passed one tick. -/
theorem step_next {s t : State} (h : step s = .next t) :
    (∃ i, exec i { s with slot := none } = .next t) ∨ (∃ i, exec i (drive s) = .next t) ∨ tick (drive s) = .next t := by
  unfold step runWord at h
  split at h
  · split at h
    · next i _ => exact .inl ⟨i, h⟩
    · simp at h
  · split at h
    · split at h
      · next i _ => exact .inr (.inl ⟨i, h⟩)
      · simp at h
    · exact .inr (.inr h)

/-- Whatever every tick keeps, every step keeps, if it does not look at the requester's pins and program. -/
theorem step_keeps {P : State → Prop} (hi : IgnoresRequester P) (ht : ∀ s t, P s → tick s = .next t → P t)
    (s t : State) (hp : P s) (h : step s = .next t) : P t := by
  rcases step_next h with ⟨i, hx⟩ | ⟨i, hx⟩ | hx
  · exact exec_keeps hi ht i _ t (hi s s.inp s.prog s.awaiting none hp) hx
  · exact exec_keeps hi ht i _ t (drive_keeps hi hp) hx
  · exact ht _ _ (drive_keeps hi hp) hx

end Sys2Proof.Machine
end

