-- ==== Sys2Proof/Laws/Parts.lean ====
section
/-! SUPPORT. Each part of a tick by its state: which rule of the transport, the shifter, the sequencer, the peer and the
trace applies (R31: one per tick). -/

namespace Sys2Proof.Machine

/-! The transport: one rule per state (R72 to R76). -/
theorem transportNext_of_idle {s : State} (h : s.tr.state = .idle) : transportNext s = transportIdle s := by
  simp [transportNext, h]
theorem transportNext_of_setup {s : State} (h : s.tr.state = .setup) : transportNext s = transportSetup s := by
  simp [transportNext, h]
theorem transportNext_of_xfer {s : State} (h : s.tr.state = .xfer) : transportNext s = transportXfer s := by
  simp [transportNext, h]
theorem transportNext_of_hold {s : State} (h : s.tr.state = .hold) : transportNext s = transportHold s := by
  simp [transportNext, h]
theorem transportNext_of_gap {s : State} (h : s.tr.state = .gap) : transportNext s = transportGap s := by
  simp [transportNext, h]

/-! What `keepPayload` leaves alone: all but `rdata` and `rdata_valid` (R74). -/
@[simp] theorem keepPayload_state (s : State) : (keepPayload s).state = s.tr.state := by unfold keepPayload; split <;> rfl
@[simp] theorem keepPayload_dir (s : State) : (keepPayload s).dir = s.tr.dir := by unfold keepPayload; split <;> rfl
@[simp] theorem keepPayload_addr (s : State) : (keepPayload s).addr = s.tr.addr := by unfold keepPayload; split <;> rfl
@[simp] theorem keepPayload_wdata (s : State) : (keepPayload s).wdata = s.tr.wdata := by unfold keepPayload; split <;> rfl
@[simp] theorem keepPayload_idx (s : State) : (keepPayload s).idx = s.tr.idx := by unfold keepPayload; split <;> rfl
@[simp] theorem keepPayload_wait (s : State) : (keepPayload s).wait = s.tr.wait := by unfold keepPayload; split <;> rfl
@[simp] theorem keepPayload_csAsserted (s : State) : (keepPayload s).csAsserted = s.tr.csAsserted := by
  unfold keepPayload; split <;> rfl
@[simp] theorem keepPayload_done (s : State) : (keepPayload s).done = s.tr.done := by unfold keepPayload; split <;> rfl

/-! When no exchange starts. -/
theorem startByte_of_idle {s : State} (h : s.tr.state = .idle) : startByte s = none := by simp [startByte, h]
theorem startByte_of_hold {s : State} (h : s.tr.state = .hold) : startByte s = none := by simp [startByte, h]
theorem startByte_of_gap {s : State} (h : s.tr.state = .gap) : startByte s = none := by simp [startByte, h]
theorem startByte_of_waiting_setup {s : State} (h : s.tr.state = .setup) (hw : 0 < s.tr.wait) :
    startByte s = none := by
  simp [startByte, h]; omega
theorem startByte_of_running {s : State} (h : s.tr.state = .xfer) (ho : s.sh.ovf = false) : startByte s = none := by
  simp [startByte, h, ho]

/-! The shifter: a start, an acknowledge, an edge, or rest (R62, R63, R66, R74). -/
theorem shifterNext_of_start {s : State} {b : Byte} (h : startByte s = some b) :
    shifterNext s = shStart s.par s.sh b := by
  simp [shifterNext, h]
theorem shifterNext_of_acknowledge {s : State} (h : startByte s = none) (ha : acknowledging s = true) :
    shifterNext s = { s.sh with ovf := false } := by
  simp [shifterNext, h, ha]
theorem shifterNext_of_edge {s : State} (h : startByte s = none) (ha : acknowledging s = false)
    (he : edgeFires s = true) : shifterNext s = shEdge s.par s.sh (sample s) := by
  simp [shifterNext, h, ha, he]
theorem shifterNext_of_rest {s : State} (h : startByte s = none) (ha : acknowledging s = false)
    (he : edgeFires s = false) : shifterNext s = s.sh := by
  simp [shifterNext, h, ha, he]

/-! The sequencer. -/
theorem sequencerNext_of_host {s : State} (h : s.par.requester = .host) : sequencerNext s = s.sq := by
  simp [sequencerNext, h]
theorem sequencerNext_of_parked {s : State} (h : s.sq.state = .parked) : sequencerNext s = s.sq := by
  unfold sequencerNext; split <;> simp [h]

/-! The trace and the peer. -/
theorem accepting_state {s : State} (h : accepting s = true) : s.tr.state = .idle := by
  simp [accepting] at h; exact h.1
theorem deasserting_state {s : State} (h : deasserting s = true) : s.tr.state = .hold := by
  simp [deasserting] at h; exact h.1
theorem tickEvents_of_edge {s : State} (hi : s.tr.state ≠ .idle) (hh : s.tr.state ≠ .hold) (h : startByte s = none)
    (ha : acknowledging s = false) (he : edgeFires s = true) : tickEvents s = edgeEvents s := by
  simp [tickEvents, accepting, deasserting, hi, hh, h, ha, he]
theorem peerNext_of_unattached {s : State} (h : s.attached ≠ .reference) : peerNext s = s.peer := by
  unfold peerNext; split <;> simp_all

/-- The peer sees nothing but `CsAssert` and the sampling edges. -/
theorem peerNext_of_quiet {s : State} (ha : accepting s = false) (hs : sampling s = false) : peerNext s = s.peer := by
  unfold peerNext; split <;> simp [ha, hs]

end Sys2Proof.Machine
end

