-- ==== Sys2Proof/Laws/PerInstr.lean ====
section
/-! SUPPORT. Facts about each instruction as syntax: its word fits its format. -/

namespace Sys2Proof.Laws.FitsFormat

/-- The instruction's word has no bit above its format's width (R59). -/
def Statement (i : Instr) : Prop := encode i < 2 ^ i.format.width

theorem writeReg (addr wdata : Byte) : Statement (.writeReg addr wdata) := (0b0#1 ++ addr ++ wdata).isLt
theorem readReg (addr wdata : Byte) : Statement (.readReg addr wdata) := (0b1#1 ++ addr ++ wdata).isLt
theorem shift (tx : Byte) : Statement (.shift tx) := tx.isLt
theorem init : Statement .init := by unfold Statement; decide
theorem cmdWrite (addr : Addr) : Statement (.cmdWrite addr) := (0b00#2 ++ addr).isLt
theorem cmdRead (addr : Addr) : Statement (.cmdRead addr) := (0b10#2 ++ addr).isLt
theorem cmdWriteAi (addr : Addr) : Statement (.cmdWriteAi addr) := (0b01#2 ++ addr).isLt
theorem cmdReadAi (addr : Addr) : Statement (.cmdReadAi addr) := (0b11#2 ++ addr).isLt
theorem dummy : Statement .dummy := by unfold Statement; decide
theorem writeFrame (addr : Addr) (wdata : Byte) : Statement (.writeFrame addr wdata) :=
  (0b00#2 ++ addr ++ 0xFF#8 ++ wdata).isLt
theorem readFrame (addr : Addr) : Statement (.readFrame addr) := (0b10#2 ++ addr ++ 0xFF#8 ++ 0xFF#8).isLt

end Sys2Proof.Laws.FitsFormat
end

