-- ==== Sys2Proof/Tests/Slice0.lean ====
section
/-! SUPPORT. The model's own tests: encodings written out from the spec, one-step checks against 95_test_vectors.md, and
for every statement with hypotheses a concrete state that meets them. -/

namespace Sys2Proof.Tests

open Sys2Proof.Machine

/-! The check of WellFormed refuses the reserved command bytes (R58 item 1) and nothing else of those bits. -/
theorem test_wf_refuses_cmdWriteAi : (Instr.cmdWriteAi 0x05#6).wf = false := by decide
theorem test_wf_refuses_cmdReadAi : (Instr.cmdReadAi 0x3F#6).wf = false := by decide
theorem test_wf_takes_cmdWrite : (Instr.cmdWrite 0x05#6).wf = true := by decide

/-! Every constructor by a word written out from its encoding (30_encoding.md, opcode_table.json). -/
/-- R54: `0 00000011 00010100`, the first initialization write, 0x00314 (95 part 2). -/
theorem test_decode_writeReg : decode .req17 0b00000001100010100 = .ok (.writeReg 0x03#8 0x14#8) := by decide
/-- R54: `1 11000101 10101011`, 0x1C5AB (95 part 2). -/
theorem test_decode_readReg : decode .req17 0b11100010110101011 = .ok (.readReg 0xC5#8 0xAB#8) := by decide
/-- R56. -/
theorem test_decode_shift : decode .shift8 0b10100101 = .ok (.shift 0xA5#8) := by decide
/-- R57. -/
theorem test_decode_init : decode .pulse1 0b1 = .ok .init := by decide
/-- R49: `0 0 000101`, WR 0x05. -/
theorem test_decode_cmdWrite : decode .cmd8 0b00000101 = .ok (.cmdWrite 0x05#6) := by decide
/-- R49: `1 0 010010`, RD 0x12. -/
theorem test_decode_cmdRead : decode .cmd8 0b10010010 = .ok (.cmdRead 0x12#6) := by decide
/-- R58: 0x40 to 0x7F. -/
theorem test_decode_cmdWriteAi : decode .cmd8 0b01000001 = .ok (.cmdWriteAi 0x01#6) := by decide
/-- R58: "the same value as a first byte would be a reserved auto-increment read of address 63". -/
theorem test_decode_cmdReadAi : decode .cmd8 0b11111111 = .ok (.cmdReadAi 0x3F#6) := by decide
/-- R51. -/
theorem test_decode_dummy : decode .byte8 0b11111111 = .ok .dummy := by decide
/-- R53: `00 000101 11111111 10100111`, 0x05FFA7 (95 part 2). -/
theorem test_decode_writeFrame :
    decode .frame24 0b000001011111111110100111 = .ok (.writeFrame 0x05#6 0xA7#8) := by decide
/-- R53: `10 010010 11111111 11111111`, 0x92FFFF (95 part 2). -/
theorem test_decode_readFrame : decode .frame24 0b100100101111111111111111 = .ok (.readFrame 0x12#6) := by decide

/-! What is rejected, by name. -/
theorem test_reject_wide : decode .req17 0x20000 = .error .tooWide := by decide
theorem test_reject_noPulse : decode .pulse1 0 = .error .noPulse := by decide
theorem test_reject_notDummy : decode .byte8 0xFE = .error .notDummy := by decide
theorem test_reject_reservedFrame : decode .frame24 0x45FFA7 = .error .reservedFrame := by decide
theorem test_reject_notFrame : decode .frame24 0x0500A7 = .error .notFrame := by decide
theorem test_reject_readFrame_third : decode .frame24 0x92FF00 = .error .notFrame := by decide

/-- The table's own words, one per row, as the host hands them over. -/
theorem test_tableWords :
    [decodeTableWord 24 0x000000, decodeTableWord 24 0x010000, decodeTableWord 0 0, decodeTableWord 8 0x01,
     decodeTableWord 8 0x00, decodeTableWord 8 0x80, decodeTableWord 8 0x40, decodeTableWord 8 0xC0,
     decodeTableWord 8 0xFF, decodeTableWord 24 0x00FF00, decodeTableWord 24 0x80FFFF] =
    [some (.writeReg 0 0), some (.readReg 0 0), some (.shift 0), some .init, some (.cmdWrite 0), some (.cmdRead 0),
     some (.cmdWriteAi 0), some (.cmdReadAi 0), some .dummy, some (.writeFrame 0 0), some (.readFrame 0)] := by decide

/-! Helpers: small states. -/

/-- Values for the registers the reset leaves unspecified. -/
def draw0 : ResetDraw :=
  { dir := false, addr := 0, wdata := 0, idx := 3, rdata := 0, sr := 0, rxbit := false, sdo := false }

/-- The vectors' inputs: strobe on, pins ready, the peer driving 0 (95_test_vectors.md, conventions). -/
def strobe : Inputs := { Inputs.quiet with edgeTick := true, pinsReady := true }

/-- The state after reset at the vector values, with `n` further ticks of the vectors' inputs given. -/
def start (r : Requester) (n : Nat) : State :=
  { State.launch (Params.vector r) draw0 strobe with env := List.replicate n strobe }

/-- A state in the transport's state `st` with chip-select as it belongs and the shifter idle at count 0. -/
def place (r : Requester) (st : TState) (wait : Nat) (idx : BitVec 2) (dir ovf : Bool) (n : Nat) : State :=
  { start r n with
    tr := { (start r n).tr with state := st, wait := wait, idx := idx, dir := dir, addr := 0x12#6, wdata := 0xA7#8,
                                csAsserted := selecting st }
    sh := { (start r n).sh with ovf := ovf, sr := 0x5C#8 } }

/-- A state in `XFER` with an exchange running at edge `k`, in the phase `cpha`. -/
def running (cpha : Bool) (k : BitVec 4) (edge : Bool) (n : Nat) : State :=
  { place .host .xfer 0 1 false false n with
    par := { Params.vector .host with cpha := cpha }
    sh := { sr := 0xA5#8, cnt := k, ovf := false, run := true, rxbit := true, sclk := k.getLsbD 0, sdo := false }
    inp := { strobe with edgeTick := edge, sdi := true } }

/-- A configuring sequencer. -/
def configuring (step issued done : Bool) (st : TState) : State :=
  { place .sequencer st 0 0 false false 0 with
    tr := { (place .sequencer st 0 0 false false 0).tr with done := done }
    sq := { state := .configuring, armed := true, settle := 4, step := step, issued := issued } }

/-- The value a check finds in the next state, if there is one. -/
def look {α : Type} (o : Host.Outcome State Fault Refusal) (f : State → α) : Option α :=
  match o with
  | .next s => some (f s)
  | .fault _ => none
  | .refused _ => none

/-! One step each, against 95_test_vectors.md and the rules. -/

/-- 95 part 4.1: tick 0 accepts `WR 0x05, 0xA7`, asserts chip-select and loads `t_wait` with 1. -/
theorem test_writeReg_accepted :
    look (exec (.writeReg 0x05#8 0xA7#8) (start .host 0)) (fun t => (t.tr.state, t.tr.wait, t.tr.csAsserted, t.trace)) =
      some (.setup, 1, true, [.csAssert]) := by decide
/-- R78: `address = 0xC5` emits command 0x05: the latched address is masked. -/
theorem test_writeReg_masks :
    look (exec (.writeReg 0xC5#8 0x12#8) (start .host 0)) (fun t => (t.tr.addr, t.tr.wdata, t.tr.dir)) =
      some (0x05#6, 0x12#8, false) := by decide
/-- R79: `RD 0x7F` masks bit 6 and latches direction 1. -/
theorem test_readReg_masks :
    look (exec (.readReg 0x7F#8 0x00#8) (start .host 0)) (fun t => (t.tr.addr, t.tr.dir)) = some (0x3F#6, true) := by decide
/-- R62: `ShStart(0x83)` with `P_CPHA = 0` leaves `sh_sr = 0x83`, `sdo = 1`, `sh_run = 1`. -/
theorem test_shStart :
    (shStart (Params.vector .host) (start .host 0).sh 0x83#8).sr = 0x83#8 ∧
    (shStart (Params.vector .host) (start .host 0).sh 0x83#8).sdo = true ∧
    (shStart (Params.vector .host) (start .host 0).sh 0x83#8).run = true := by decide
/-- 95 part 3.2, edge 1 (`P_CPHA = 0`): the bit sampled on edge 0 enters, `sdo` shows the next bit. -/
theorem test_edge1_phase0 :
    look (tick (running false 1 true 0)) (fun t => (t.sh.sr, t.sh.sdo, t.sh.sclk, t.sh.cnt)) =
      some (0b01001011#8, false, false, 2) := by decide
/-- 95 part 3.3, edge 0 (`P_CPHA = 1`): `sdo` takes bit 7, the register stands. -/
theorem test_edge0_phase1 :
    look (tick (running true 0 true 0)) (fun t => (t.sh.sr, t.sh.sdo, t.sh.sclk)) = some (0xA5#8, true, true) := by decide
/-- R63: the 16th edge sets `sh_ovf`, stops and wraps. -/
theorem test_edge15 :
    look (tick (running false 15 true 0)) (fun t => (t.sh.ovf, t.sh.run, t.sh.cnt, t.sh.sclk)) =
      some (true, false, 0, false) := by decide
/-- SHIFT in the third place of a write starts the payload (95 part 4.1, tick 36). -/
theorem test_shift_started :
    look (exec (.shift 0xA7#8) (place .host .xfer 0 1 false true 0)) (fun t => (t.tr.idx, t.sh.sr, t.sh.run, t.sh.ovf)) =
      some (2, 0xA7#8, true, false) := by decide
/-- SHIFT of another byte is not what the transport starts (R71). -/
theorem test_shift_refused :
    exec (.shift 0x00#8) (place .host .xfer 0 1 false true 0) = .refused .notIssued := rfl
/-- 95 part 4.3, tick 2: `ShStart(0x92)`. -/
theorem test_cmdRead_started :
    look (exec (.cmdRead 0x12#6) (place .host .setup 0 0 true false 0)) (fun t => (t.tr.state, t.sh.sr, t.sh.sdo)) =
      some (.xfer, 0x92#8, true) := by decide
/-- R71: a write command where the latched request is a read is not started. -/
theorem test_cmdWrite_refused :
    exec (.cmdWrite 0x12#6) (place .host .setup 0 0 true false 0) = .refused .notIssued := rfl
/-- A write command in its place (R50). -/
theorem test_cmdWrite_started :
    look (exec (.cmdWrite 0x12#6) (place .host .setup 0 0 false false 0)) (fun t => (t.tr.state, t.sh.sr)) =
      some (.xfer, 0x12#8) := by decide
/-- 95 part 4.1, tick 19: the acknowledge of exchange 0 starts `0xFF`. -/
theorem test_dummy_started :
    look (exec .dummy (place .host .xfer 0 0 false true 0)) (fun t => (t.tr.idx, t.sh.sr, t.tr.rdataValid)) =
      some (1, 0xFF#8, false) := by decide
/-- 95 part 4.3, tick 53: the third acknowledge of a read puts the byte into `rdata`. -/
theorem test_read_payload_kept :
    look (tick (place .host .xfer 0 2 true true 0)) (fun t => (t.tr.rdata, t.tr.rdataValid, t.tr.state, t.tr.wait)) =
      some (0x5C#8, true, .hold, 1) := by decide
/-- R74: a write's third byte is discarded. -/
theorem test_write_byte_discarded :
    look (tick (place .host .xfer 0 2 false true 0)) (fun t => (t.tr.rdata, t.tr.rdataValid)) = some (0#8, false) := by
  decide
/-- R86: `INIT` at tick 0 gives `q_armed = 1` from tick 1. -/
theorem test_init_arms : look (exec .init (start .sequencer 0)) (fun t => (t.sq.armed, t.sq.state)) =
    some (true, .unconfigured) := by decide
/-- D34: with `P_REQUESTER = HOST` there is no sequencer to arm. -/
theorem test_init_ignored_by_host : look (exec .init (start .host 0)) (fun t => t.sq.armed) = some false := by decide
/-- R58. -/
theorem test_reserved_refused : exec (.cmdReadAi 0x3F#6) (start .host 0) = .refused .reservedCommand := rfl
/-- R53: the frame of `WR 0x05, 0xA7` begins like its request. -/
theorem test_writeFrame_accepted :
    look (exec (.writeFrame 0x05#6 0xA7#8) (start .host 0)) (fun t => (t.tr.addr, t.tr.wdata, t.tr.dir)) =
      some (0x05#6, 0xA7#8, false) := by decide
theorem test_readFrame_accepted :
    look (exec (.readFrame 0x12#6) (start .host 0)) (fun t => (t.tr.addr, t.tr.dir, t.tr.csAsserted)) =
      some (0x12#6, true, true) := by decide
/-- E6 (95 part 6): `rdata` read before any read. -/
theorem test_rdataUnwritten :
    tick { start .host 0 with inp := { strobe with takeRdata := true } } = .fault .rdataUnwritten := rfl
/-- R60: the wait of a `WR` begins at its acceptance, and the request is struck off. -/
theorem test_program_awaits :
    look (clock { start .host 0 with prog := [.wr 0x05#8 0xA7#8, .idle] }) (fun t => (t.awaiting, t.prog, t.tr.state)) =
      some (true, [.idle], .setup) := by decide
/-- E2, R60: a reset in the middle of a write gives no `done`, so the program waits on. -/
theorem test_program_waits_over_reset :
    look (clock { running false 3 true 0 with prog := [.idle], awaiting := true, inp := { strobe with rst := true } })
      (fun t => (t.awaiting, t.prog, t.tr.done)) = some (true, [.idle], false) := by decide
/-- R60: blocked in its last `WR`, a program holds `req_valid` at 0, whatever is sampled. -/
theorem test_program_holds_low :
    (drive { start .host 0 with awaiting := true, inp := { strobe with reqValid := true } }).inp.reqValid = false := by decide
/-- E7: `pins_ready` drops. -/
theorem test_pinsReadyDropped :
    tick { start .host 0 with pinsSeen := true, inp := Inputs.quiet } = .fault .pinsReadyDropped := rfl
/-- E8: a hand-built state with `sh_run = 1` and `t_state = IDLE`. -/
theorem test_invariantBroken :
    step { start .host 0 with sh := { (start .host 0).sh with run := true } } = .fault .invariantBroken := rfl
/-- R62: `ShStart` with an exchange running. -/
theorem test_shifterBusy : exec (.shift 0xFF#8) (running false 3 true 0) = .fault .shifterBusy := rfl
/-- R48: the reference peer takes the third byte of a write. -/
theorem test_referencePeer_writes :
    peerByte { RefPeer.fresh with n := 2, dir := false, a := 0x07#6 } 0x5A#8 =
      { RefPeer.fresh with n := 3, dir := false, a := 0x07#6, mem := [(7, 0x5A#8)] } := by decide
/-- R48: it drives `P[a]`, most-significant bit first, in the third exchange of a read. -/
theorem test_referencePeer_drives :
    peerOut { RefPeer.fresh with n := 2, dir := true, a := 0x07#6, mem := [(7, 0x80#8)] } false = true := by decide
/-- R59: a trace splits into frames; here one window whose 8 bits are the byte 0x81. -/
theorem test_bytes_of_bits :
    bytesOf [true, false, false, false, false, false, false, true] = [0x81#8] := by decide
/-- R48, E2: "the reference peer writes nothing" before the third byte. -/
theorem test_referencePeer_second_byte :
    (peerByte { RefPeer.fresh with n := 1, dir := false } 0xFF#8).mem = [] := by decide

/-! A placed word runs as the first instruction after reset, one per row of the table. -/

theorem test_place_writeReg : look (step (State.reset.withFetchWord 24 0x0005A7)) (fun t => (t.tr.addr, t.tr.wdata)) =
    some (0x05#6, 0xA7#8) := by decide
theorem test_place_readReg : look (step (State.reset.withFetchWord 24 0x011200)) (fun t => (t.tr.addr, t.tr.dir)) =
    some (0x12#6, true) := by decide
theorem test_place_shift : look (step (State.reset.withFetchWord 0 0)) (fun t => (t.sh.sr, t.sh.run)) =
    some (0x00#8, true) := by decide
theorem test_place_init : look (step (State.reset.withFetchWord 8 1)) (fun t => t.sq.armed) = some true := by decide
theorem test_place_cmdWrite : look (step (State.reset.withFetchWord 8 0x05)) (fun t => (t.sh.sr, t.sh.run)) =
    some (0x05#8, true) := by decide
theorem test_place_cmdRead : look (step (State.reset.withFetchWord 8 0x92)) (fun t => (t.sh.sr, t.sh.run)) =
    some (0x92#8, true) := by decide
theorem test_place_cmdWriteAi : step (State.reset.withFetchWord 8 0x40) = .refused .reservedCommand := rfl
theorem test_place_cmdReadAi : step (State.reset.withFetchWord 8 0xC0) = .refused .reservedCommand := rfl
theorem test_place_dummy : look (step (State.reset.withFetchWord 8 0xFF)) (fun t => (t.sh.sr, t.tr.idx)) =
    some (0xFF#8, 1) := by decide
theorem test_place_writeFrame : look (step (State.reset.withFetchWord 24 0x05FFA7)) (fun t => (t.tr.addr, t.tr.wdata)) =
    some (0x05#6, 0xA7#8) := by decide
theorem test_place_readFrame : look (step (State.reset.withFetchWord 24 0x92FFFF)) (fun t => (t.tr.addr, t.tr.dir)) =
    some (0x12#6, true) := by decide

/-! Whole instructions, one step each. -/

/-- 95 part 3.1, loopback: `tx = A7` returns `rx = A7`. -/
theorem test_shift_loopback :
    look (exec (.shift 0xA7#8) { place .host .xfer 0 1 false true 16 with attached := .loopback })
      (fun t => (t.sh.sr, t.sh.ovf)) = some (0xA7#8, true) := by decide
/-- 95 part 4.1: the frame of `WR 0x05, 0xA7` is `[05, FF, A7]`, and `done` is seen at tick 56. -/
theorem test_write_whole :
    look (exec (.writeReg 0x05#8 0xA7#8) (start .host 55)) (fun t => (frames false t.trace, t.tr.done, t.now)) =
      some ([[0x05#8, 0xFF#8, 0xA7#8]], true, 56) := by decide
/-- 95 part 4.3: `RD 0x12` with `P[0x12] = 0x5C` leaves `rdata = 0x5C`. -/
theorem test_read_whole :
    look (exec (.readReg 0x12#8 0x00#8)
        { start .host 55 with attached := .reference, peer := { RefPeer.fresh with mem := [(0x12, 0x5C#8)] } })
      (fun t => (frames false t.trace, t.tr.rdata, t.tr.rdataValid)) =
      some ([[0x92#8, 0xFF#8, 0xFF#8]], 0x5C#8, true) := by decide

/-! For every statement with hypotheses, states that meet them. -/

/-- A run that has a value to look at answered a next state. -/
theorem ran {o : Host.Outcome State Fault Refusal} (h : look o (fun _ => true) = some true) : ∃ t, o = .next t := by
  cases o with
  | next s => exact ⟨s, rfl⟩
  | fault r => simp [look] at h
  | refused r => simp [look] at h

/-- A schedule with the strobe off. -/
def still : Inputs := { Inputs.quiet with pinsReady := true }

theorem witness_EncodeOfDecodeIsTheWord : decode .frame24 0x92FFFF = .ok (.readFrame 0x12#6) := by decide

theorem witness_StepRunsTheDecodedInstruction :
    (({ start .host 0 with slot := some (.shift8, 0xA5) } : State).slot = some (.shift8, 0xA5) ∧
      decode .shift8 0xA5 = .ok (.shift 0xA5#8) ∧ (Instr.shift 0xA5#8).wf = true) ∧
    ((place .host .setup 0 0 true false 0).slot = none ∧
      fetch (drive (place .host .setup 0 0 true false 0)) = some (.cmd8, 0x92) ∧
      decode .cmd8 0x92 = .ok (.cmdRead 0x12#6) ∧ (Instr.cmdRead 0x12#6).wf = true) ∧
    ((start .host 0).slot = none ∧ fetch (drive (start .host 0)) = none) := by decide

theorem witness_WhatTheBlockStartsIsWellFormed :
    fetch (configuring false false false .idle) = some (.req17, 0x00314) ∧
    fetch (place .host .setup 0 0 false false 0) = some (.cmd8, 0x12) ∧
    fetch (place .host .xfer 0 0 true true 0) = some (.byte8, 0xFF) ∧
    fetch (place .host .xfer 0 1 true true 0) = some (.byte8, 0xFF) ∧
    fetch (place .host .xfer 0 1 false true 0) = some (.shift8, 0xA7) ∧
    fetch { start .sequencer 0 with inp := { strobe with initGo := true } } = some (.pulse1, 1) := by decide

/-- A host with a program, at reset. -/
def programmed (r : Requester) (p : List Stmt) : State := { start r 2 with prog := p }

theorem witness_ProgramWriteRunsItsRequest :
    (programmed .host [.wr 0x07#8 0x5A#8]).slot = none ∧
    (programmed .host [.wr 0x07#8 0x5A#8]).prog = .wr 0x07#8 0x5A#8 :: [] ∧
    hostReady (programmed .host [.wr 0x07#8 0x5A#8]) = true ∧ waiting (programmed .host [.wr 0x07#8 0x5A#8]) = false := by
  decide

theorem witness_ProgramReadRunsItsRequest :
    (programmed .host [.rd 0x07#8, .idle]).slot = none ∧
    (programmed .host [.rd 0x07#8, .idle]).prog = .rd 0x07#8 :: [.idle] ∧
    hostReady (programmed .host [.rd 0x07#8, .idle]) = true ∧ waiting (programmed .host [.rd 0x07#8, .idle]) = false := by
  decide

/-- INIT with the sequencer and with a host; IDLE with both. -/
theorem witness_ProgramInitAndIdleTakeOneTick :
    ((programmed .sequencer [.init]).slot = none ∧ undisturbed (programmed .sequencer [.init]) = true ∧
      waiting (programmed .sequencer [.init]) = false ∧ (programmed .sequencer [.init]).tr.state = .idle ∧
      (programmed .sequencer [.init]).par.requester = .sequencer ∧
      (programmed .sequencer [.init]).sq.state ≠ .configuring) ∧
    (undisturbed (programmed .host [.init]) = true ∧ waiting (programmed .host [.init]) = false ∧
      (programmed .host [.init]).tr.state = .idle ∧ (programmed .host [.init]).par.requester = .host) ∧
    (undisturbed (programmed .host [.idle]) = true ∧ waiting (programmed .host [.idle]) = false ∧
      (programmed .host [.idle]).tr.state = .idle ∧ (programmed .host [.idle]).par.requester = .host) ∧
    (undisturbed (programmed .sequencer [.idle]) = true ∧ waiting (programmed .sequencer [.idle]) = false ∧
      (programmed .sequencer [.idle]).sq.state ≠ .configuring ∧ (programmed .sequencer [.idle]).sq.armed = false) := by decide

theorem witness_StartLoadsTheShifter :
    (undisturbed (place .host .setup 0 0 true false 0) = true ∧
      startByte (place .host .setup 0 0 true false 0) = some 0x92#8) ∧
    (undisturbed { place .host .xfer 0 0 false true 0 with par := { Params.vector .host with cpha := true } } = true ∧
      startByte { place .host .xfer 0 0 false true 0 with par := { Params.vector .host with cpha := true } } =
        some 0xFF#8) := by decide

theorem witness_StartWhileRunningFaults :
    (running false 3 true 0).inp.rst = false ∧ (running false 3 true 0).sh.run = true := by decide

/-- Both sides of the count and of the strobe. -/
theorem witness_ClockEdgeCountsAndCompletes :
    (undisturbed (running false 15 true 0) = true ∧ (running false 15 true 0).sh.run = true ∧
      (running false 15 true 0).inp.edgeTick = true ∧ (running false 15 true 0).sh.cnt = 15) ∧
    (undisturbed (running true 14 true 0) = true ∧ (running true 14 true 0).sh.run = true ∧
      (running true 14 true 0).inp.edgeTick = true ∧ (running true 14 true 0).sh.cnt ≠ 15) ∧
    (undisturbed (running false 15 false 0) = true ∧ (running false 15 false 0).sh.run = true ∧
      (running false 15 false 0).inp.edgeTick = false) ∧
    (undisturbed (place .host .xfer 0 1 false true 0) = true ∧ (place .host .xfer 0 1 false true 0).sh.run = false) ∧
    (undisturbed (start .host 0) = true ∧ (start .host 0).sh.run = false) := by decide

theorem witness_SamplingEdgeReadsTheLine :
    (undisturbed (running false 0 true 0) = true ∧ (running false 0 true 0).sh.run = true ∧
      (running false 0 true 0).inp.edgeTick = true ∧
      (running false 0 true 0).sh.cnt.getLsbD 0 = (running false 0 true 0).par.cpha) ∧
    (undisturbed (running true 15 true 0) = true ∧ (running true 15 true 0).sh.run = true ∧
      (running true 15 true 0).inp.edgeTick = true ∧
      (running true 15 true 0).sh.cnt.getLsbD 0 = (running true 15 true 0).par.cpha) ∧
    (running false 0 true 0).attached = .draws := by decide

theorem witness_OtherEdgeMovesTheRegister :
    (undisturbed (running false 15 true 0) = true ∧ (running false 15 true 0).sh.run = true ∧
      (running false 15 true 0).inp.edgeTick = true ∧
      (running false 15 true 0).sh.cnt.getLsbD 0 ≠ (running false 15 true 0).par.cpha) ∧
    (undisturbed (running true 0 true 0) = true ∧ (running true 0 true 0).sh.run = true ∧
      (running true 0 true 0).inp.edgeTick = true ∧
      (running true 0 true 0).sh.cnt.getLsbD 0 ≠ (running true 0 true 0).par.cpha) := by decide

theorem witness_ShiftExchangesOneByte :
    (startsByte 0xA7#8 (place .host .xfer 0 1 false true 16) = true ∧
      (place .host .xfer 0 1 false true 16).env.all calm = true ∧
      16 ≤ strobes (place .host .xfer 0 1 false true 16).env) ∧
    (startsByte 0x92#8 { place .host .setup 0 0 true false 16 with attached := .reference } = true ∧
      (place .host .setup 0 0 true false 16).env.all calm = true ∧
      16 ≤ strobes (place .host .setup 0 0 true false 16).env) := by decide

theorem witness_CommandAndDummyBytesAreExchanged :
    ((place .host .setup 0 0 false false 16).tr.state = .setup ∧
      startsByte (0b00#2 ++ 0x12#6) (place .host .setup 0 0 false false 16) = true ∧
      (place .host .setup 0 0 false false 16).env.all calm = true ∧
      16 ≤ strobes (place .host .setup 0 0 false false 16).env) ∧
    ((place .host .setup 0 0 true false 16).tr.state = .setup ∧
      startsByte (0b10#2 ++ 0x12#6) (place .host .setup 0 0 true false 16) = true ∧
      (place .host .setup 0 0 true false 16).env.all calm = true ∧
      16 ≤ strobes (place .host .setup 0 0 true false 16).env) ∧
    ((place .host .xfer 0 1 true true 16).tr.state = .xfer ∧
      ((place .host .xfer 0 1 true true 16).tr.idx = 0 ∨ (place .host .xfer 0 1 true true 16).tr.dir = true) ∧
      startsByte 0xFF#8 (place .host .xfer 0 1 true true 16) = true ∧
      (place .host .xfer 0 1 true true 16).env.all calm = true ∧
      16 ≤ strobes (place .host .xfer 0 1 true true 16).env) := by decide

theorem witness_LoopbackReturnsTheByte :
    startsByte 0xA7#8 { place .host .xfer 0 1 false true 16 with attached := .loopback } = true ∧
    startsByte 0xA7#8 (place .host .xfer 0 1 false true 16) = true ∧
    (place .host .xfer 0 1 false true 16).env.all calm = true ∧
    16 ≤ strobes (place .host .xfer 0 1 false true 16).env := by decide

theorem witness_NoStrobeNoProgress :
    undisturbed { running false 7 false 0 with env := [still, still] } = true ∧
    (running false 7 false 0).sh.run = true ∧
    (({ running false 7 false 0 with env := [still, still] } : State).inp ::
      ({ running false 7 false 0 with env := [still, still] } : State).env).all (fun i => calm i && !i.edgeTick) = true ∧
    0 < 3 ∧ 3 ≤ ({ running false 7 false 0 with env := [still, still] } : State).env.length + 1 := by decide

/-- A host's write and read, and the sequencer's own write. -/
theorem witness_FairStrobeEndsEveryRequest :
    (∀ k : Nat, calm ((fun _ => strobe) k) = true) ∧ EdgeFair (fun _ => strobe) ∧
    takesRequest { dir := false, addr := 0xC5#8, wdata := 0x12#8 } (start .host 0) = true ∧
    takesRequest { dir := true, addr := 0xC5#8, wdata := 0x12#8 } (start .host 0) = true ∧
    takesRequest { dir := false, addr := 0x03#8, wdata := 0x14#8 } (configuring false false false .idle) = true :=
  ⟨fun _ => (by decide : calm strobe = true), fun t => ⟨t, Nat.le_refl t, (by decide : strobe.edgeTick = true)⟩,
    by decide, by decide, by decide⟩

/-- A request on the port of a host and of the sequencer, and none. -/
theorem witness_IdleAcceptsTheRequest :
    (undisturbed (present { dir := true, addr := 0x92#8, wdata := 0#8 } (start .host 0)) = true ∧
      (start .host 0).tr.state = .idle ∧
      portValid (present { dir := true, addr := 0x92#8, wdata := 0#8 } (start .host 0)) = true) ∧
    (undisturbed (configuring true false false .idle) = true ∧ (configuring true false false .idle).tr.state = .idle ∧
      portValid (configuring true false false .idle) = true) ∧
    (undisturbed (start .host 0) = true ∧ portValid (start .host 0) = false) := by decide

theorem witness_SetupWaitsThenStarts :
    (undisturbed (place .host .setup 1 0 false false 0) = true ∧ (place .host .setup 1 0 false false 0).tr.state = .setup ∧
      0 < (place .host .setup 1 0 false false 0).tr.wait) ∧
    (undisturbed (place .host .setup 0 0 false false 0) = true ∧ (place .host .setup 0 0 false false 0).tr.state = .setup ∧
      (place .host .setup 0 0 false false 0).tr.wait = 0) := by decide

/-- Waiting; each index; and both directions at the third. -/
theorem witness_AcknowledgeKeepsOnlyTheReadPayload :
    (undisturbed (running false 3 true 0) = true ∧ (running false 3 true 0).tr.state = .xfer ∧
      (running false 3 true 0).sh.ovf = false) ∧
    (undisturbed (place .host .xfer 0 1 true true 0) = true ∧ (place .host .xfer 0 1 true true 0).sh.ovf = true ∧
      (place .host .xfer 0 1 true true 0).tr.idx < 2) ∧
    (undisturbed (place .host .xfer 0 2 true true 0) = true ∧ (place .host .xfer 0 2 true true 0).tr.state = .xfer ∧
      (place .host .xfer 0 2 true true 0).sh.ovf = true ∧ (place .host .xfer 0 2 true true 0).tr.idx = 2 ∧
      (place .host .xfer 0 2 true true 0).tr.dir = true) ∧
    (undisturbed (place .host .xfer 0 2 false true 0) = true ∧ (place .host .xfer 0 2 false true 0).sh.ovf = true ∧
      ¬((place .host .xfer 0 2 false true 0).tr.idx = 2 ∧ (place .host .xfer 0 2 false true 0).tr.dir = true)) := by decide

theorem witness_HoldWaitsThenReleases :
    (undisturbed (place .host .hold 1 2 false false 0) = true ∧ (place .host .hold 1 2 false false 0).tr.state = .hold ∧
      0 < (place .host .hold 1 2 false false 0).tr.wait) ∧
    (undisturbed (place .host .hold 0 2 false false 0) = true ∧ (place .host .hold 0 2 false false 0).tr.state = .hold ∧
      (place .host .hold 0 2 false false 0).tr.wait = 0) := by decide

theorem witness_GapSeparatesTheWindows :
    undisturbed (place .host .gap 2 2 false false 2) = true ∧ (place .host .gap 2 2 false false 2).tr.state = .gap ∧
    (place .host .gap 2 2 false false 2).env.all calm = true ∧
    (place .host .gap 2 2 false false 2).tr.wait ≤ (place .host .gap 2 2 false false 2).env.length ∧
    look (runTicks 2 (place .host .gap 2 2 false false 2)) (fun _ => true) = some true := by decide

theorem witness_BusyRequestHasNoEffect :
    (place .host .gap 0 2 false false 0).par.requester = .host ∧ (place .host .gap 0 2 false false 0).tr.state ≠ .idle := by
  decide

/-- A host's write, and the sequencer's own second write. -/
theorem witness_WriteRegPutsItsFrameOnTheBus :
    (takesRequest { dir := false, addr := 0xC5#8, wdata := 0x12#8 } (start .host 55) = true ∧
      (start .host 55).env.all calm = true ∧
      53 + (start .host 55).par.csSetup + (start .host 55).par.csHold ≤ strobes (start .host 55).env) ∧
    (takesRequest { dir := false, addr := 0x02#8, wdata := 0x02#8 }
        { configuring true false false .idle with env := List.replicate 55 strobe } = true ∧
      ({ configuring true false false .idle with env := List.replicate 55 strobe } : State).env.all calm = true ∧
      53 + (configuring true false false .idle).par.csSetup + (configuring true false false .idle).par.csHold ≤
        strobes (List.replicate 55 strobe)) := by decide

theorem witness_ReadRegReturnsTheThirdByte :
    takesRequest { dir := true, addr := 0x7F#8, wdata := 0xAB#8 } (start .host 55) = true ∧
    (start .host 55).env.all calm = true ∧
    53 + (start .host 55).par.csSetup + (start .host 55).par.csHold ≤ strobes (start .host 55).env := by decide

theorem witness_FramesAreTheirWords :
    hostReady (start .host 55) = true ∧ (start .host 55).env.all calm = true ∧
    53 + (start .host 55).par.csSetup + (start .host 55).par.csHold ≤ strobes (start .host 55).env := by decide

theorem witness_DoneIsSeenOnTheCountedTick :
    (start .host 55).env.all (fun i => calm i && i.edgeTick) = true ∧
    53 + (start .host 55).par.csSetup + (start .host 55).par.csHold ≤ (start .host 55).env.length ∧
    takesRequest { dir := false, addr := 0xC5#8, wdata := 0x12#8 } (start .host 55) = true ∧
    takesRequest { dir := true, addr := 0xC5#8, wdata := 0x12#8 } (start .host 55) = true ∧
    takesRequest { dir := false, addr := 0x02#8, wdata := 0x02#8 }
      { configuring true false false .idle with env := List.replicate 55 strobe } = true := by decide

theorem witness_AddressTopBitsHaveNoEffect :
    (start .host 0).par.requester = .host ∧ 0xC5#8 &&& 0x3F#8 = 0x05#8 &&& 0x3F#8 := by decide

theorem witness_ReadPayloadFieldHasNoEffect :
    hostReady (start .host 2) = true ∧ (start .host 2).env.all calm = true ∧
    ∃ t, exec (.readReg 0x12#8 0x00#8) (start .host 2) = .next t :=
  ⟨by decide, by decide, ran (by decide)⟩

theorem witness_RequestsLeaveTheRestAlone :
    hostReady (start .host 2) = true ∧ (start .host 2).env.all calm = true ∧
    (∃ t, exec (.writeReg 0x12#8 0x00#8) (start .host 2) = .next t) ∧
    (∃ t, exec (.readReg 0x12#8 0x00#8) (start .host 2) = .next t) ∧
    (∃ t, exec (.writeFrame 0x12#6 0x00#8) (start .host 2) = .next t) ∧
    (∃ t, exec (.readFrame 0x12#6) (start .host 2) = .next t) :=
  ⟨by decide, by decide, ran (by decide), ran (by decide), ran (by decide), ran (by decide)⟩

theorem witness_ExchangesLeaveTheRestAlone :
    (place .host .xfer 0 1 false true 2).inp.rst = false ∧ (place .host .xfer 0 1 false true 2).env.all calm = true ∧
    (∃ t, exec (.shift 0xA7#8) (place .host .xfer 0 1 false true 2) = .next t) ∧
    (∃ t, exec (.cmdWrite 0x12#6) (place .host .setup 0 0 false false 2) = .next t) ∧
    (∃ t, exec (.cmdRead 0x12#6) (place .host .setup 0 0 true false 2) = .next t) ∧
    (∃ t, exec .dummy (place .host .xfer 0 0 false true 2) = .next t) :=
  ⟨by decide, by decide, ran (by decide), ran (by decide), ran (by decide), ran (by decide)⟩

/-- A host's write, and the sequencer's second, at the reference peer. -/
theorem witness_WriteReachesTheReferencePeer :
    (takesRequest { dir := false, addr := 0x07#8, wdata := 0x5A#8 } { start .host 55 with attached := .reference } = true ∧
      ({ start .host 55 with attached := .reference } : State).attached = .reference ∧
      Memory.wf (start .host 55).peer.mem = true ∧ (start .host 55).env.all calm = true ∧
      53 + (start .host 55).par.csSetup + (start .host 55).par.csHold ≤ strobes (start .host 55).env) ∧
    takesRequest { dir := false, addr := 0x02#8, wdata := 0x02#8 }
      { configuring true false false .idle with env := List.replicate 55 strobe, attached := .reference } = true := by decide

theorem witness_ReadReturnsTheReferencePeersRegister :
    hostReady { start .host 55 with attached := .reference } = true ∧
    ({ start .host 55 with attached := .reference } : State).attached = .reference ∧
    (start .host 55).env.all calm = true ∧
    53 + (start .host 55).par.csSetup + (start .host 55).par.csHold ≤ strobes (start .host 55).env := by decide

/-- Another byte in a starting place, and a place where nothing starts; a write command where a read begins, and a byte
0x12 in third place; 0xFF as the payload of a write, which is no dummy byte. -/
theorem witness_UnissuedBytesAreRefused :
    ((place .host .xfer 0 1 false true 0).inp.rst = false ∧ (place .host .xfer 0 1 false true 0).sh.run = false ∧
      startByte (place .host .xfer 0 1 false true 0) ≠ some 0x00#8) ∧
    ((start .host 0).inp.rst = false ∧ (start .host 0).sh.run = false ∧ startByte (start .host 0) ≠ some 0xA5#8) ∧
    (startByte (place .host .setup 0 0 true false 0) ≠ some (0b00#2 ++ 0x12#6) ∧
      startByte (place .host .setup 0 0 false false 0) ≠ some (0b10#2 ++ 0x12#6)) ∧
    (place .host .xfer 0 1 false true 0).tr.state ≠ .setup ∧
    ((place .host .xfer 0 1 false true 0).tr.idx ≠ 0 ∧ (place .host .xfer 0 1 false true 0).tr.dir = false) := by
  decide

theorem witness_SequencerBuildHasNoRequestPins : (start .sequencer 0).par.requester = .sequencer := by decide

/-- A sequencer armed, `n` ticks into the settle delay, with the pins ready or not. -/
def settling (n : Nat) (ready : Bool) : State :=
  { start .sequencer 0 with
    sq := { Sequencer.afterReset with armed := true, settle := n }
    inp := { strobe with pinsReady := ready } }

theorem witness_SettleDelayCountsReadyTicks :
    (undisturbed (settling 3 true) = true ∧ (settling 3 true).par.requester = .sequencer ∧
      (settling 3 true).sq.state = .unconfigured ∧ (settling 3 true).sq.armed = true ∧
      (settling 3 true).inp.pinsReady = true ∧ (settling 3 true).sq.settle < (settling 3 true).par.settleDelay) ∧
    (undisturbed (settling 4 true) = true ∧ (settling 4 true).inp.pinsReady = true ∧
      (settling 4 true).par.settleDelay ≤ (settling 4 true).sq.settle) ∧
    (undisturbed (settling 4 false) = true ∧ (settling 4 false).inp.pinsReady = false) := by decide

theorem witness_SequencerDrivesItsTwoWrites :
    ((configuring false false false .idle).par.requester = .sequencer ∧ (configuring false false false .idle).sq.step = false) ∧
    ((configuring true false false .idle).par.requester = .sequencer ∧ (configuring true false false .idle).sq.step = true) := by
  decide

theorem witness_ConfiguringIssuesThenMovesOn :
    (undisturbed (configuring false false false .idle) = true ∧
      (configuring false false false .idle).par.requester = .sequencer ∧
      (configuring false false false .idle).sq.state = .configuring ∧
      (configuring false false false .idle).sq.issued = false ∧ (configuring false false false .idle).tr.state = .idle) ∧
    (undisturbed (configuring true false false .gap) = true ∧ (configuring true false false .gap).sq.issued = false ∧
      (configuring true false false .gap).tr.state ≠ .idle) ∧
    (undisturbed (configuring false true true .gap) = true ∧ (configuring false true true .gap).sq.issued = true ∧
      (configuring false true true .gap).tr.done = true ∧ (configuring false true true .gap).sq.step = false) ∧
    (undisturbed (configuring true true true .gap) = true ∧ (configuring true true true .gap).sq.issued = true ∧
      (configuring true true true .gap).tr.done = true ∧ (configuring true true true .gap).sq.step = true) ∧
    (undisturbed (configuring true true false .hold) = true ∧ (configuring true true false .hold).sq.issued = true ∧
      (configuring true true false .hold).tr.done = false) := by decide

/-- A parked block. -/
def parked : State :=
  { start .sequencer 3 with
    sq := { state := .parked, armed := true, settle := 4, step := true, issued := false }
    inp := { strobe with initGo := true } }

theorem witness_ParkedIsTerminal :
    parked.sq.state = .parked ∧ parked.inp.rst = false ∧ parked.env.all (fun i => !i.rst) = true ∧
    parked.par.requester = .sequencer ∧ parked.tr.state = .idle ∧ ∃ t, step parked = .next t :=
  ⟨by decide, by decide, by decide, by decide, by decide, ran (by decide)⟩

/-- Fresh; armed already; configuring; parked; and no sequencer at all. -/
theorem witness_InitArmsOnce :
    ((start .sequencer 0).par.requester = .sequencer ∧ (start .sequencer 0).sq.state = .unconfigured ∧
      (start .sequencer 0).sq.armed = false ∧ undisturbed (start .sequencer 0) = true) ∧
    ¬((settling 0 true).par.requester = .sequencer ∧ (settling 0 true).sq.state = .unconfigured ∧
      (settling 0 true).sq.armed = false) ∧
    ¬((configuring false false false .idle).par.requester = .sequencer ∧
      (configuring false false false .idle).sq.state = .unconfigured ∧
      (configuring false false false .idle).sq.armed = false) ∧
    ¬(parked.par.requester = .sequencer ∧ parked.sq.state = .unconfigured ∧ parked.sq.armed = false) ∧
    ¬((start .host 0).par.requester = .sequencer ∧ (start .host 0).sq.state = .unconfigured ∧
      (start .host 0).sq.armed = false) := by decide

theorem witness_InitializationWritesTwiceThenParks :
    (Params.vector .sequencer).requester = .sequencer ∧ ({ strobe with initGo := true } : Inputs).initGo = true ∧
    calm { strobe with initGo := true } = true ∧
    (List.replicate 120 strobe).all (fun j => calm j && j.edgeTick) = true ∧
    (Params.vector .sequencer).settleDelay + 111 + 2 * (Params.vector .sequencer).csSetup +
      2 * (Params.vector .sequencer).csHold + (Params.vector .sequencer).csIdle ≤ (List.replicate 120 strobe).length := by
  decide

theorem witness_ResetOverridesEveryInstruction :
    ({ running false 3 true 0 with inp := { strobe with rst := true } } : State).inp.rst = true ∧
    (Instr.writeReg 0x05#8 0xA7#8).wf = true := by decide

theorem witness_EveryStepKeepsTheInvariants :
    invariants (start .host 2) = true ∧ ∃ t, step (start .host 2) = .next t :=
  ⟨by decide, ran (by decide)⟩

theorem witness_EveryStepKeepsTheWindows :
    bracketed false ({ running false 3 true 0 with trace := [.csAssert] } : State).trace =
      some ({ running false 3 true 0 with trace := [.csAssert] } : State).tr.csAsserted ∧
    ∃ t, step { running false 3 true 0 with trace := [.csAssert] } = .next t :=
  ⟨by decide, ran (by decide)⟩

theorem witness_EveryStepKeepsTheSpaceCanonical :
    Memory.wf ({ start .host 0 with peer := { RefPeer.fresh with mem := [(2, 0x02#8), (63, 0x14#8)] } } : State).peer.mem
      = true ∧
    ∃ t, step { start .host 0 with peer := { RefPeer.fresh with mem := [(2, 0x02#8), (63, 0x14#8)] } } = .next t :=
  ⟨by decide, ran (by decide)⟩

theorem witness_EveryStepKeepsTheExchangeAlive :
    exchangeAlive (running false 15 true 0) = true ∧ ∃ t, step (running false 15 true 0) = .next t :=
  ⟨by decide, ran (by decide)⟩

theorem witness_TickFaultsExactlyWhenADutyIsBroken :
    (start .host 0).attached ≠ .reference ∧ (start .host 0).inp.rst = false ∧ undisturbed (start .host 0) = true := by decide

/-- A host at the tick where a transaction's `done = 1` is seen. -/
def doneSeen (dir : Bool) : State :=
  { place .host .gap 1 2 dir false 0 with
    tr := { (place .host .gap 1 2 dir false 0).tr with done := true, rdataValid := true, rdata := 0x5C#8 } }

/-- Blocked in the middle of a transaction, in `IDLE` after a reset, and in the reset tick itself; and at the tick where
`done = 1` is seen, with and without a reset in it. -/
theorem witness_ProgramWaitsForItsDone :
    (({ running false 3 true 0 with awaiting := true } : State).par.requester = .host ∧
      ({ running false 3 true 0 with awaiting := true } : State).awaiting = true ∧
      undisturbed { running false 3 true 0 with awaiting := true } = true) ∧
    (undisturbed { start .host 0 with awaiting := true } = true ∧
      ({ start .host 0 with awaiting := true } : State).tr.state = .idle) ∧
    (({ running false 3 true 0 with awaiting := true, inp := { strobe with rst := true } } : State).awaiting = true ∧
      ({ running false 3 true 0 with awaiting := true, inp := { strobe with rst := true } } : State).inp.rst = true) ∧
    (({ doneSeen false with awaiting := true } : State).par.requester = .host ∧
      ({ doneSeen false with awaiting := true } : State).tr.done = true ∧
      undisturbed { doneSeen false with awaiting := true } = true) ∧
    (({ doneSeen true with awaiting := true, inp := { strobe with rst := true } } : State).par.requester = .host ∧
      ({ doneSeen true with awaiting := true, inp := { strobe with rst := true } } : State).tr.done = true ∧
      ({ doneSeen true with awaiting := true, inp := { strobe with rst := true } } : State).inp.rst = true) := by
  decide

/-- Ticks that meet the clauses' hypotheses: in `GAP`, waiting and done with waiting; the release; a read's third byte
acknowledged; the last edge; an unarmed sequencer; a host in `IDLE`. -/
theorem witness_EachRegisterHasItsWriter :
    ((place .host .gap 1 2 true false 0).inp.rst = false ∧ (∃ t, tick (place .host .gap 1 2 true false 0) = .next t) ∧
      0 < (place .host .gap 1 2 true false 0).tr.wait ∧
      accepting (place .host .gap 1 2 true false 0) = false ∧ deasserting (place .host .gap 1 2 true false 0) = false ∧
      edgeFires (place .host .gap 1 2 true false 0) = false ∧ startByte (place .host .gap 1 2 true false 0) = none ∧
      acknowledging (place .host .gap 1 2 true false 0) = false) ∧
    ((∃ t, tick (place .host .hold 0 2 true false 0) = .next t) ∧ deasserting (place .host .hold 0 2 true false 0) = true) ∧
    ((∃ t, tick (place .host .xfer 0 2 true true 0) = .next t) ∧
      acknowledging (place .host .xfer 0 2 true true 0) = true ∧ (place .host .xfer 0 2 true true 0).sh.ovf = true) ∧
    ((∃ t, tick (running false 15 true 0) = .next t) ∧ (running false 15 true 0).sh.ovf = false ∧
      edgeFires (running false 15 true 0) = true ∧ (running false 15 true 0).tr.state = .xfer) ∧
    ((∃ t, tick (start .sequencer 0) = .next t) ∧ (start .sequencer 0).sq.state = .unconfigured ∧
      (start .sequencer 0).sq.armed = false ∧ (start .sequencer 0).inp.initGo = false) ∧
    ((∃ t, tick (doneSeen true) = .next t) ∧ (doneSeen true).tr.rdataValid = true ∧ (doneSeen true).par.requester = .host) :=
  ⟨⟨by decide, ran (by decide), by decide, by decide, by decide, by decide, by decide, by decide⟩,
    ⟨ran (by decide), by decide⟩, ⟨ran (by decide), by decide, by decide⟩,
    ⟨ran (by decide), by decide, by decide, by decide⟩, ⟨ran (by decide), by decide, by decide, by decide⟩,
    ⟨ran (by decide), by decide, by decide⟩⟩

theorem witness_PinsFollowTheTransport :
    invariants (running false 3 true 0) = true ∧
    (invariants (start .host 0) = true ∧ (start .host 0).sh.run = false) := by decide

theorem witness_HostTakesTheResultAtDone :
    (undisturbed (doneSeen true) = true ∧ (doneSeen true).par.requester = .host ∧ (doneSeen true).tr.done = true ∧
      (doneSeen true).tr.rdataValid = true ∧ (doneSeen true).tr.dir = true) ∧
    (undisturbed (doneSeen false) = true ∧ (doneSeen false).tr.done = true ∧ (doneSeen false).tr.dir = false ∧
      (doneSeen false).inp.takeRdata = false) := by decide

end Sys2Proof.Tests
end

section
/-! The seven invariants of R32 over a tick: the transport's items by its five rules, the shifter's by what happens to it
in a tick, the sequencer's by its states; then the whole step. -/

namespace Sys2Proof.Machine

/-! The transport (R32 items 1 and 6). -/

/-- R32 item 1: chip-select moves exactly where `t_state` enters or leaves the states that assert it. -/
theorem transportNext_csAsserted {s : State} (h : s.tr.csAsserted = selecting s.tr.state) :
    (transportNext s).csAsserted = selecting (transportNext s).state := by
  cases hs : s.tr.state with
  | idle => rw [transportNext_of_idle hs]; unfold transportIdle; split <;> simp [h, hs, selecting]
  | setup => rw [transportNext_of_setup hs]; unfold transportSetup; split <;> simp [h, hs, selecting]
  | xfer =>
    rw [transportNext_of_xfer hs]; unfold transportXfer
    split
    · split <;> simp [h, hs, selecting]
    · simp [h]
  | hold => rw [transportNext_of_hold hs]; unfold transportHold; split <;> simp [h, hs, selecting]
  | gap => rw [transportNext_of_gap hs]; unfold transportGap; split <;> simp [h, hs, selecting]

/-- R32 item 6: an acceptance clears `t_idx`, and only an acknowledge below 2 counts it up. -/
theorem transportNext_idx_le {s : State} (h : s.tr.state ≠ .idle → s.tr.idx ≤ 2) :
    (transportNext s).state ≠ .idle → (transportNext s).idx ≤ 2 := by
  cases hs : s.tr.state with
  | idle => rw [transportNext_of_idle hs]; unfold transportIdle; split <;> simp [hs]
  | setup => rw [transportNext_of_setup hs]; unfold transportSetup; split <;> simpa [hs] using h
  | xfer =>
    have hi : s.tr.idx ≤ 2 := h (by simp [hs])
    rw [transportNext_of_xfer hs]; unfold transportXfer
    split
    · split
      · intro _; simp only; bv_omega
      · simpa using hi
    · simpa [hs] using hi
  | hold => rw [transportNext_of_hold hs]; unfold transportHold; split <;> simpa [hs] using h
  | gap => rw [transportNext_of_gap hs]; unfold transportGap; split <;> simp_all

/-- A tick that starts an exchange ends in `XFER` (R73, R74). -/
theorem transportNext_state_of_start {s : State} {b : Byte} (h : startByte s = some b) :
    (transportNext s).state = .xfer := by
  rcases startByte_some h with ⟨hs, hw, _⟩ | ⟨hs, ho, hi, _⟩
  · simp [transportNext_of_setup hs, transportSetup, hw]
  · rw [transportNext_of_xfer hs, transportXfer, if_pos ho, if_pos hi]
    simpa using hs

/-- Without `sh_ovf` the transport waits in `XFER` (R74). -/
theorem transportNext_state_of_running {s : State} (hs : s.tr.state = .xfer) (ho : s.sh.ovf = false) :
    (transportNext s).state = .xfer := by
  simp [transportNext_of_xfer hs, transportXfer, ho, hs]

/-! The shifter (R32 items 2 to 5). -/

/-- R32 items 2 to 5: a shifter in a build `p`, beside a transport in the state `st`. -/
structure Shifter.Consistent (p : Params) (h : Shifter) (st : TState) : Prop where
  run : h.run = true → st = .xfer
  ovf : h.ovf = true → h.run = false ∧ st = .xfer
  clock : h.sclk = (p.cpol ^^ h.cnt.getLsbD 0)
  count : h.run = false → h.cnt = 0

/-- The seven invariants with the shifter's four as one. -/
theorem invariants_iff_consistent (s : State) : invariants s = true ↔
    s.tr.csAsserted = selecting s.tr.state ∧ s.sh.Consistent s.par s.tr.state ∧
    (s.tr.state ≠ .idle → s.tr.idx ≤ 2) ∧ (s.sq.issued = true → s.sq.state = .configuring) := by
  rw [invariants_iff]
  constructor
  · rintro ⟨hsel, hrun, hovf, hclk, hcnt, hidx, hiss⟩
    exact ⟨hsel, ⟨hrun, hovf, hclk, hcnt⟩, hidx, hiss⟩
  · rintro ⟨hsel, ⟨hrun, hovf, hclk, hcnt⟩, hidx, hiss⟩
    exact ⟨hsel, hrun, hovf, hclk, hcnt, hidx, hiss⟩

/-- Where no exchange runs, `ShStart` begins one with the clock at `P_CPOL` (R62). -/
theorem consistent_shStart {p : Params} {h : Shifter} {st : TState} (hc : h.Consistent p st) (hr : h.run = false)
    (b : Byte) : (shStart p h b).Consistent p .xfer where
  run _ := rfl
  ovf := by simp
  clock := by simp [hc.clock, hc.count hr]
  count := by simp

/-- Where an exchange has completed, the acknowledge leaves the shifter at rest, wherever the transport goes (R74). -/
theorem consistent_acknowledged {p : Params} {h : Shifter} {st : TState} (hc : h.Consistent p st) (ho : h.ovf = true)
    (st' : TState) : ({ h with ovf := false } : Shifter).Consistent p st' where
  run := by simp [(hc.ovf ho).1]
  ovf := by simp
  clock := hc.clock
  count := hc.count

/-- The parity of `sh_cnt` turns with every edge, the wrap at 15 included (R63). -/
theorem parity_add_one (k : BitVec 4) : (k + 1#4)[0] = !k[0] := by
  revert k; decide

/-- An edge in `XFER` moves the clock and the counter's parity together, and the 16th ends the exchange (R63). -/
theorem consistent_shEdge {p : Params} {h : Shifter} (hc : h.Consistent p .xfer) (ho : h.ovf = false) (x : Bool) :
    (shEdge p h x).Consistent p .xfer where
  run _ := rfl
  ovf := by simp [shEdge, ho]
  clock := by simp [shEdge, hc.clock, parity_add_one]
  count hr := by
    have hk : h.cnt = 15 := by simpa [shEdge] using hr
    simp [shEdge, hk]

/-- No exchange is started over one that runs (R62): at the end of `SETUP` and at an acknowledge the shifter is at rest. -/
theorem run_eq_false_of_start {s : State} {b : Byte} (hc : s.sh.Consistent s.par s.tr.state)
    (hb : startByte s = some b) : s.sh.run = false := by
  rcases startByte_some hb with ⟨hs, _, _⟩ | ⟨_, ho, _, _⟩
  · exact Bool.eq_false_iff.mpr fun hr => by simpa [hs] using hc.run hr
  · exact (hc.ovf ho).1

/-- Unacknowledged, `sh_ovf` is 0: it is set in `XFER` only, where every tick acknowledges it (R74). -/
theorem ovf_eq_false_of_not_acknowledging {s : State} (hc : s.sh.Consistent s.par s.tr.state)
    (ha : acknowledging s = false) : s.sh.ovf = false :=
  Bool.eq_false_iff.mpr fun ho => by simp [acknowledging, ho, (hc.ovf ho).2] at ha

/-- R32 items 2 to 5 after a tick: an exchange starts, is acknowledged, takes an edge, or nothing happens to it. -/
theorem consistent_shifterNext {s : State} (hc : s.sh.Consistent s.par s.tr.state) :
    (shifterNext s).Consistent s.par (transportNext s).state := by
  cases hb : startByte s with
  | some b =>
    have hr : s.sh.run = false := run_eq_false_of_start hc hb
    rw [shifterNext_of_start hb, transportNext_state_of_start hb]
    exact consistent_shStart hc hr b
  | none =>
    cases ha : acknowledging s with
    | true =>
      rw [shifterNext_of_acknowledge hb ha]
      exact consistent_acknowledged hc (by simp_all [acknowledging]) _
    | false =>
      have ho : s.sh.ovf = false := ovf_eq_false_of_not_acknowledging hc ha
      cases he : edgeFires s with
      | true =>
        have hx : s.tr.state = .xfer := hc.run (by simp_all [edgeFires])
        rw [shifterNext_of_edge hb ha he, transportNext_state_of_running hx ho]
        exact consistent_shEdge (hx ▸ hc) ho _
      | false =>
        rw [shifterNext_of_rest hb ha he]
        exact ⟨fun hr => transportNext_state_of_running (hc.run hr) ho, by simp [ho], hc.clock, hc.count⟩

/-! The sequencer (R32 item 7). -/

/-- R32 item 7: `q_issued` is set only in `CONFIGURING`, and cleared where `CONFIGURING` is entered or left. -/
theorem sequencerNext_issued {s : State} (h : s.sq.issued = true → s.sq.state = .configuring) :
    (sequencerNext s).issued = true → (sequencerNext s).state = .configuring := by
  cases hp : s.par.requester with
  | host => rwa [sequencerNext_of_host hp]
  | sequencer =>
    cases hs : s.sq.state with
    | unconfigured =>
      simp only [sequencerNext, hp, hs, sequencerUnconfigured]
      split_ifs <;> simp_all
    | configuring =>
      simp only [sequencerNext, hp, hs, sequencerConfiguring]
      split_ifs <;> simp_all
    | parked => rwa [sequencerNext_of_parked hs]

/-! All seven together. -/

/-- R32: an undisturbed tick keeps the invariants. -/
theorem invariants_advance {s : State} (h : invariants s = true) : invariants (advance s) = true := by
  obtain ⟨hsel, hsh, hidx, hiss⟩ := (invariants_iff_consistent s).mp h
  exact (invariants_iff_consistent (advance s)).mpr
    ⟨transportNext_csAsserted hsel, consistent_shifterNext hsh, transportNext_idx_le hidx, sequencerNext_issued hiss⟩

/-- The table of R107 keeps the invariants, whatever held before and whatever is drawn. -/
theorem invariants_resetTick (s : State) : invariants (resetTick s) = true := by
  simp [invariants_iff, selecting]

theorem invariants_tick {s t : State} (h : invariants s = true) (ht : tick s = .next t) : invariants t = true := by
  rcases tick_next ht with ⟨_, rfl⟩ | ⟨_, rfl⟩
  · exact invariants_resetTick s
  · exact invariants_advance h

/-- No invariant of R32 looks at the inputs, the program or the slot. -/
theorem invariants_ignoresRequester : IgnoresRequester (fun s => invariants s = true) :=
  fun _ _ _ _ _ h => h

/-- Settles O46: one tick keeps the invariants, and a step is made of ticks. -/
theorem everyStepKeepsTheInvariants : Obligations.EveryStepKeepsTheInvariants := by
  rintro s t h (hstep | htick)
  · exact step_keeps invariants_ignoresRequester (fun _ _ => invariants_tick) s t h hstep
  · exact invariants_tick h htick

end Sys2Proof.Machine
end

section
/-! A reset tick: whatever instruction is executed in it, the reset of R107 is what happens (R28). -/

namespace Sys2Proof.Machine

/-- R28: in a reset tick a request on the port has no effect. -/
theorem transact_of_rst {s : State} (h : s.inp.rst = true) (r : Request) : transact r s = .next (resetTick s) := by
  have hp : (present r s).inp.rst = true := h
  simp only [transact, h, Bool.not_true, Bool.false_and, Bool.false_eq_true, if_false]
  exact tick_of_rst hp

/-- R28: in a reset tick no byte is started. -/
theorem exchange_of_rst {s : State} (h : s.inp.rst = true) (place : Bool) (b : Byte) :
    exchange place b s = .next (resetTick s) := by
  simp only [exchange, h, if_true, tick_of_rst]

/-- R28: in a reset tick every well-formed instruction gives way to the reset. -/
theorem exec_of_rst {s : State} (h : s.inp.rst = true) {i : Instr} (hi : i.wf = true) :
    exec i s = .next (resetTick s) := by
  cases i with
  | writeReg a v => exact transact_of_rst h _
  | readReg a v => exact transact_of_rst h _
  | shift tx => exact exchange_of_rst h _ _
  | init => exact tick_of_rst h
  | cmdWrite a => exact exchange_of_rst h _ _
  | cmdRead a => exact exchange_of_rst h _ _
  | cmdWriteAi a => simp [Instr.wf] at hi
  | cmdReadAi a => simp [Instr.wf] at hi
  | dummy => exact exchange_of_rst h _ _
  | writeFrame a v => exact transact_of_rst h _
  | readFrame a => exact transact_of_rst h _

/-- Settles O44: the next state is `resetTick s`, and its registers are those of the table of R107. -/
theorem resetOverridesEveryInstruction : Obligations.ResetOverridesEveryInstruction := by
  intro s i hr hi
  refine ⟨resetTick s, exec_of_rst hr hi, tick_of_rst hr, ?_⟩
  simp [reqReady, busy, sleepReq, csPin, Sequencer.afterReset]

end Sys2Proof.Machine
end

section
/-! A tick by what the shifter is doing: running with a strobe (R63), running without one, or stopped (R66). -/

namespace Sys2Proof.Machine

/-- In an undisturbed tick the shifter keeps R32 items 2 to 5. -/
theorem undisturbed_consistent {s : State} (h : undisturbed s = true) : s.sh.Consistent s.par s.tr.state :=
  ((invariants_iff_consistent s).mp (undisturbed_invariants h)).2.1

/-- While an exchange runs, `sh_ovf` is 0 (R32 item 3). -/
theorem ovf_eq_false_of_running {s : State} (hc : s.sh.Consistent s.par s.tr.state) (hr : s.sh.run = true) :
    s.sh.ovf = false :=
  Bool.eq_false_iff.mpr fun ho => by simp [(hc.ovf ho).1] at hr

/-- While an exchange runs, none is started over it (R62). -/
theorem startByte_eq_none_of_running {s : State} (hc : s.sh.Consistent s.par s.tr.state) (hr : s.sh.run = true) :
    startByte s = none :=
  startByte_of_running (hc.run hr) (ovf_eq_false_of_running hc hr)

/-- While an exchange runs, there is nothing to acknowledge (R74). -/
theorem acknowledging_eq_false_of_running {s : State} (hc : s.sh.Consistent s.par s.tr.state)
    (hr : s.sh.run = true) : acknowledging s = false := by
  simp [acknowledging, ovf_eq_false_of_running hc hr]

/-! Running, with a strobe: one clock edge. -/

theorem shifterNext_of_running_edge {s : State} (hc : s.sh.Consistent s.par s.tr.state) (hr : s.sh.run = true)
    (he : s.inp.edgeTick = true) : shifterNext s = shEdge s.par s.sh (sample s) :=
  shifterNext_of_edge (startByte_eq_none_of_running hc hr) (acknowledging_eq_false_of_running hc hr)
    (by simp [edgeFires, he, hr])

theorem tickEvents_of_running_edge {s : State} (hc : s.sh.Consistent s.par s.tr.state) (hr : s.sh.run = true)
    (he : s.inp.edgeTick = true) : tickEvents s = edgeEvents s :=
  tickEvents_of_edge (by simp [hc.run hr]) (by simp [hc.run hr]) (startByte_eq_none_of_running hc hr)
    (acknowledging_eq_false_of_running hc hr) (by simp [edgeFires, he, hr])

/-- The 16th edge wraps the counter and completes the exchange (R63). -/
theorem shEdge_completes {h : Shifter} (hk : h.cnt = 15) (p : Params) (x : Bool) :
    (shEdge p h x).cnt = 0 ∧ (shEdge p h x).run = false ∧ (shEdge p h x).ovf = true := by
  simp [shEdge, hk]

/-- Every other edge counts, and the exchange runs on (R63). -/
theorem shEdge_counts {h : Shifter} (hk : h.cnt ≠ 15) (ho : h.ovf = false) (p : Params) (x : Bool) :
    (shEdge p h x).cnt = h.cnt + 1 ∧ (shEdge p h x).run = true ∧ (shEdge p h x).ovf = false := by
  simpa [shEdge, ho] using hk

/-! Running, without a strobe: nothing. -/

theorem shifterNext_of_running_pause {s : State} (hc : s.sh.Consistent s.par s.tr.state) (hr : s.sh.run = true)
    (he : s.inp.edgeTick = false) : shifterNext s = s.sh :=
  shifterNext_of_rest (startByte_eq_none_of_running hc hr) (acknowledging_eq_false_of_running hc hr)
    (by simp [edgeFires, he])

theorem tickEvents_of_running_pause {s : State} (hc : s.sh.Consistent s.par s.tr.state) (hr : s.sh.run = true)
    (he : s.inp.edgeTick = false) : tickEvents s = [] := by
  simp [tickEvents, accepting, deasserting, edgeFires, hc.run hr, he]

/-! Stopped: no edge (R66). -/

/-- A stopped shifter may be started or acknowledged; neither moves the clock or the sampled bit (R62, R74). -/
theorem shifterNext_lines_of_stopped {s : State} (hr : s.sh.run = false) :
    (shifterNext s).sclk = s.sh.sclk ∧ (shifterNext s).rxbit = s.sh.rxbit := by
  cases hb : startByte s with
  | some b => simp [shifterNext_of_start hb]
  | none =>
    cases ha : acknowledging s with
    | true => simp [shifterNext_of_acknowledge hb ha]
    | false => simp [shifterNext_of_rest hb ha (by simp [edgeFires, hr])]

/-- With the shifter stopped, only chip-select moves on the trace. -/
theorem tickEvents_of_stopped {s : State} (hr : s.sh.run = false) :
    tickEvents s = [] ∨ tickEvents s = [.csAssert] ∨ tickEvents s = [.csDeassert] := by
  have he : edgeFires s = false := by simp [edgeFires, hr]
  unfold tickEvents
  split_ifs <;> simp_all

/-- Settles O10: the tick advances; a running shifter takes its edge or, without a strobe, stands still, and a stopped one
has no edge. -/
theorem clockEdgeCountsAndCompletes : Obligations.ClockEdgeCountsAndCompletes := by
  intro s h
  have hc : s.sh.Consistent s.par s.tr.state := undisturbed_consistent h
  refine ⟨advance s, tick_of_undisturbed h, fun hr he => ?edge, fun hr he => ?pause, fun hr => ?stopped⟩
  case edge =>
    rw [advance_sh, advance_trace, shifterNext_of_running_edge hc hr he, tickEvents_of_running_edge hc hr he]
    exact ⟨by simp [shEdge], fun hk => shEdge_completes hk _ _,
      fun hk => shEdge_counts hk (ovf_eq_false_of_running hc hr) _ _, _, rfl⟩
  case pause =>
    simp [shifterNext_of_running_pause hc hr he, tickEvents_of_running_pause hc hr he]
  case stopped =>
    obtain ⟨hclk, hbit⟩ := shifterNext_lines_of_stopped hr
    refine ⟨hclk, hbit, ?_⟩
    rcases tickEvents_of_stopped hr with hev | hev | hev <;> simp [hev]

end Sys2Proof.Machine
end

section
/-! One tick of the transport by its state (R71 to R75): the byte it gives to `ShStart`, its registers, and what the
shifter and the trace do beside it. -/

namespace Sys2Proof.Machine

/-! The frame bytes and where they are started (R71). -/

theorem frameByte_zero (t : Transport) : frameByte t 0#2 = BitVec.ofBool t.dir ++ 0b0#1 ++ t.addr := rfl

theorem frameByte_one (t : Transport) : frameByte t 1#2 = 0xFF#8 := rfl

theorem frameByte_two (t : Transport) : frameByte t 2#2 = if t.dir = false then t.wdata else 0xFF#8 := by
  cases h : t.dir <;> simp [frameByte, h, dummyByte]

theorem startByte_of_setup_over {s : State} (hs : s.tr.state = .setup) (hw : s.tr.wait = 0) :
    startByte s = some (frameByte s.tr 0) := by
  simp [startByte, hs, hw]

/-- The acknowledge of exchange 0 or 1 starts the next exchange on the same tick (R74). -/
theorem startByte_of_acknowledge {s : State} (hs : s.tr.state = .xfer) (ho : s.sh.ovf = true) (hi : s.tr.idx < 2#2) :
    startByte s = some (frameByte s.tr (s.tr.idx + 1)) := by
  simp [startByte, hs, ho, hi]

/-- Past exchange 1 nothing is left to start (R74). -/
theorem startByte_of_last {s : State} (hs : s.tr.state = .xfer) (hi : ¬ s.tr.idx < 2#2) : startByte s = none := by
  simp [startByte, hs, hi]

/-- The indices below 2 are 0 and 1. -/
theorem idx_lt_two_iff (i : BitVec 2) : i < 2#2 ↔ i = 0#2 ∨ i = 1#2 := by
  revert i; decide

/-- Settles O18: `startByte` by the transport's state, and in `XFER` by which exchange is acknowledged. -/
theorem onlyFrameBytesAreStarted : Obligations.OnlyFrameBytesAreStarted := by
  intro s
  cases hs : s.tr.state with
  | idle => simp [startByte_of_idle hs]
  | setup =>
    rcases Nat.eq_zero_or_pos s.tr.wait with hw | hw
    · simp [startByte_of_setup_over hs hw, hw, frameByte_zero]
    · simp [startByte_of_waiting_setup hs hw, Nat.ne_of_gt hw]
  | xfer =>
    cases ho : s.sh.ovf with
    | false => simp [startByte_of_running hs ho]
    | true =>
      by_cases hi : s.tr.idx < 2#2
      · rw [startByte_of_acknowledge hs ho hi]
        rcases (idx_lt_two_iff _).mp hi with h0 | h1
        · simp [h0, frameByte_one]
        · simp [h1, frameByte_two]
      · obtain ⟨h0, h1⟩ := not_or.mp (mt (idx_lt_two_iff _).mpr hi)
        simp [startByte_of_last hs hi, h0, h1]
  | hold => simp [startByte_of_hold hs]
  | gap => simp [startByte_of_gap hs]

/-! The shifter and the trace beside the transport. -/

/-- Outside `XFER` the shifter is at rest (R32 item 2). -/
theorem run_eq_false_of_not_xfer {s : State} (hc : s.sh.Consistent s.par s.tr.state) (hx : s.tr.state ≠ .xfer) :
    s.sh.run = false :=
  Bool.eq_false_iff.mpr fun hr => hx (hc.run hr)

/-- Outside `XFER` a tick that starts no exchange leaves the shifter alone (R66). -/
theorem shifterNext_of_not_xfer {s : State} (hc : s.sh.Consistent s.par s.tr.state) (hx : s.tr.state ≠ .xfer)
    (hb : startByte s = none) : shifterNext s = s.sh :=
  shifterNext_of_rest hb (by simp [acknowledging, hx]) (by simp [edgeFires, run_eq_false_of_not_xfer hc hx])

/-- A stopped shifter has its clock at `P_CPOL` (R32 items 4 and 5). -/
theorem sclk_of_stopped {p : Params} {h : Shifter} {st : TState} (hc : h.Consistent p st) (hr : h.run = false) :
    h.sclk = p.cpol := by
  simp [hc.clock, hc.count hr]

theorem tickEvents_of_accepting {s : State} (h : accepting s = true) : tickEvents s = [.csAssert] := by
  simp [tickEvents, h]

theorem tickEvents_of_deasserting {s : State} (h : deasserting s = true) : tickEvents s = [.csDeassert] := by
  simp [tickEvents, accepting, deasserting_state h, h]

/-- With the shifter stopped and chip-select standing, nothing happens on the bus. -/
theorem tickEvents_of_quiet {s : State} (ha : accepting s = false) (hd : deasserting s = false)
    (hr : s.sh.run = false) : tickEvents s = [] := by
  simp [tickEvents, ha, hd, edgeFires, hr]

/-! `IDLE` (R72). -/

theorem accepting_of_idle {s : State} (hs : s.tr.state = .idle) : accepting s = portValid s := by
  simp [accepting, hs]

theorem transportNext_of_requested {s : State} (hs : s.tr.state = .idle) (hv : portValid s = true) :
    transportNext s = { s.tr with
      dir := (portRequest s).dir, addr := maskAddr (portRequest s).addr, wdata := (portRequest s).wdata,
      idx := 0, csAsserted := true, wait := s.par.csSetup, state := .setup, done := false } := by
  simp [transportNext_of_idle hs, transportIdle, hv]

theorem transportNext_of_unrequested {s : State} (hs : s.tr.state = .idle) (hv : portValid s = false) :
    transportNext s = { s.tr with done := false } := by
  simp [transportNext_of_idle hs, transportIdle, hv]

/-- Settles O19: in `IDLE` the shifter is at rest, and the port alone decides what the transport and the trace do. -/
theorem idleAcceptsTheRequest : Obligations.IdleAcceptsTheRequest := by
  intro s h hs
  have hc := undisturbed_consistent h
  have hx : s.tr.state ≠ .xfer := by simp [hs]
  refine ⟨advance s, tick_of_undisturbed h, shifterNext_of_not_xfer hc hx (startByte_of_idle hs),
    fun hv => ?valid, fun hv => ?none⟩
  case valid =>
    have hev : tickEvents s = [.csAssert] := tickEvents_of_accepting (by rw [accepting_of_idle hs, hv])
    simp [transportNext_of_requested hs hv, hev, maskAddr]
  case none =>
    have hev : tickEvents s = [] := tickEvents_of_quiet (by rw [accepting_of_idle hs, hv])
      (by simp [deasserting, hs]) (run_eq_false_of_not_xfer hc hx)
    simp [transportNext_of_unrequested hs hv, hev]

/-! `SETUP` (R73). -/

theorem transportNext_of_waiting_setup {s : State} (hs : s.tr.state = .setup) (hw : 0 < s.tr.wait) :
    transportNext s = { s.tr with wait := s.tr.wait - 1, done := false } := by
  simp [transportNext_of_setup hs, transportSetup, hw]

theorem transportNext_of_setup_over {s : State} (hs : s.tr.state = .setup) (hw : s.tr.wait = 0) :
    transportNext s = { s.tr with state := .xfer, done := false } := by
  simp [transportNext_of_setup hs, transportSetup, hw]

/-- Settles O20: the shifter is at rest in `SETUP`, so that its start is all that can happen to it, and the bus is
silent. -/
theorem setupWaitsThenStarts : Obligations.SetupWaitsThenStarts := by
  intro s h hs
  have hc := undisturbed_consistent h
  have hx : s.tr.state ≠ .xfer := by simp [hs]
  have hr : s.sh.run = false := run_eq_false_of_not_xfer hc hx
  have hev : tickEvents s = [] := tickEvents_of_quiet (by simp [accepting, hs]) (by simp [deasserting, hs]) hr
  refine ⟨advance s, tick_of_undisturbed h, by simp [hev], (shifterNext_lines_of_stopped hr).1,
    fun hw => ?waits, fun hw => ?starts⟩
  case waits =>
    exact ⟨transportNext_of_waiting_setup hs hw, shifterNext_of_not_xfer hc hx (startByte_of_waiting_setup hs hw)⟩
  case starts =>
    exact ⟨transportNext_of_setup_over hs hw, shifterNext_of_start (startByte_of_setup_over hs hw)⟩

/-! `XFER` (R74). -/

theorem transportNext_of_waiting_xfer {s : State} (hs : s.tr.state = .xfer) (ho : s.sh.ovf = false) :
    transportNext s = { s.tr with done := false } := by
  simp [transportNext_of_xfer hs, transportXfer, ho]

theorem transportNext_of_next_exchange {s : State} (hs : s.tr.state = .xfer) (ho : s.sh.ovf = true)
    (hi : s.tr.idx < 2#2) : transportNext s = { keepPayload s with idx := s.tr.idx + 1, done := false } := by
  simp [transportNext_of_xfer hs, transportXfer, ho, hi]

theorem transportNext_of_last_exchange {s : State} (hs : s.tr.state = .xfer) (ho : s.sh.ovf = true)
    (hi : ¬ s.tr.idx < 2#2) :
    transportNext s = { keepPayload s with wait := s.par.csHold, state := .hold, done := false } := by
  simp [transportNext_of_xfer hs, transportXfer, ho, hi]

/-- The acknowledge takes `rdata` and `rdata_valid` from `keepPayload`, whatever comes next. -/
theorem transportNext_rdata_of_acknowledge {s : State} (hs : s.tr.state = .xfer) (ho : s.sh.ovf = true) :
    (transportNext s).rdata = (keepPayload s).rdata ∧ (transportNext s).rdataValid = (keepPayload s).rdataValid := by
  by_cases hi : s.tr.idx < 2#2
  · simp [transportNext_of_next_exchange hs ho hi]
  · simp [transportNext_of_last_exchange hs ho hi]

theorem keepPayload_of_payload {s : State} (h : s.tr.idx = 2#2 ∧ s.tr.dir = true) :
    keepPayload s = { s.tr with rdata := s.sh.sr, rdataValid := true } := by
  simp [keepPayload, h]

theorem keepPayload_of_discarded {s : State} (h : ¬(s.tr.idx = 2#2 ∧ s.tr.dir = true)) : keepPayload s = s.tr :=
  if_neg (by simpa using h)

/-- `done` is 0 after every tick in `XFER` (R18). -/
theorem transportNext_done_of_xfer {s : State} (hs : s.tr.state = .xfer) : (transportNext s).done = false := by
  rw [transportNext_of_xfer hs]; unfold transportXfer
  split_ifs <;> rfl

/-- After exchange 2 the shifter is acknowledged and not started again (R74). -/
theorem shifterNext_of_last_exchange {s : State} (hs : s.tr.state = .xfer) (ho : s.sh.ovf = true)
    (hi : ¬ s.tr.idx < 2#2) : shifterNext s = { s.sh with ovf := false } :=
  shifterNext_of_acknowledge (startByte_of_last hs hi) (by simp [acknowledging, hs, ho])

/-- The acknowledge clears `sh_ovf`, whether it starts an exchange or not (R74). -/
theorem shifterNext_ovf_of_acknowledge {s : State} (hs : s.tr.state = .xfer) (ho : s.sh.ovf = true) :
    (shifterNext s).ovf = false := by
  by_cases hi : s.tr.idx < 2#2
  · simp [shifterNext_of_start (startByte_of_acknowledge hs ho hi)]
  · simp [shifterNext_of_last_exchange hs ho hi]

/-- Settles O21: the acknowledge keeps what `keepPayload` keeps, and `t_idx` decides whether the next exchange starts or
the transport goes to `HOLD`. -/
theorem acknowledgeKeepsOnlyTheReadPayload : Obligations.AcknowledgeKeepsOnlyTheReadPayload := by
  intro s h hs
  refine ⟨advance s, tick_of_undisturbed h, transportNext_done_of_xfer hs, transportNext_of_waiting_xfer hs,
    fun ho => ?_⟩
  have hc := undisturbed_consistent h
  have hr : s.sh.run = false := (hc.ovf ho).1
  have hev : tickEvents s = [] := tickEvents_of_quiet (by simp [accepting, hs]) (by simp [deasserting, hs]) hr
  have hclk : (shifterNext s).sclk = s.par.cpol :=
    (shifterNext_lines_of_stopped hr).1.trans (sclk_of_stopped hc hr)
  obtain ⟨hdata, hvalid⟩ := transportNext_rdata_of_acknowledge hs ho
  refine ⟨shifterNext_ovf_of_acknowledge hs ho, by simp [hev], hclk, fun hp => ?payload, fun hp => ?discarded,
    fun hi => ?next, fun hi => ?last⟩
  case payload => simp [hdata, hvalid, keepPayload_of_payload hp]
  case discarded => simp [hdata, hvalid, keepPayload_of_discarded hp]
  case next =>
    simp [transportNext_of_next_exchange hs ho hi, shifterNext_of_start (startByte_of_acknowledge hs ho hi), hs]
  case last =>
    have hn : ¬ s.tr.idx < 2#2 := by simp [hi]
    simp [transportNext_of_last_exchange hs ho hn, shifterNext_of_last_exchange hs ho hn, hi]

/-! `HOLD` (R75). -/

theorem transportNext_of_waiting_hold {s : State} (hs : s.tr.state = .hold) (hw : 0 < s.tr.wait) :
    transportNext s = { s.tr with wait := s.tr.wait - 1, done := false } := by
  simp [transportNext_of_hold hs, transportHold, hw]

theorem transportNext_of_hold_over {s : State} (hs : s.tr.state = .hold) (hw : s.tr.wait = 0) :
    transportNext s = { s.tr with csAsserted := false, done := true, wait := s.par.csIdle, state := .gap } := by
  simp [transportNext_of_hold hs, transportHold, hw]

/-- Settles O22: in `HOLD` the shifter is at rest and nothing starts it, and only the release reaches the bus. -/
theorem holdWaitsThenReleases : Obligations.HoldWaitsThenReleases := by
  intro s h hs
  have hc := undisturbed_consistent h
  have hx : s.tr.state ≠ .xfer := by simp [hs]
  refine ⟨advance s, tick_of_undisturbed h, shifterNext_of_not_xfer hc hx (startByte_of_hold hs),
    fun hw => ?waits, fun hw => ?releases⟩
  case waits =>
    have hev : tickEvents s = [] := tickEvents_of_quiet (by simp [accepting, hs])
      (by simp [deasserting, Nat.ne_of_gt hw]) (run_eq_false_of_not_xfer hc hx)
    simp [transportNext_of_waiting_hold hs hw, hev]
  case releases =>
    have hev : tickEvents s = [.csDeassert] := tickEvents_of_deasserting (by simp [deasserting, hs, hw])
    simp [transportNext_of_hold_over hs hw, hev]

end Sys2Proof.Machine
end

section
/-! The Initialization Sequencer (R86 to R91): one equation per branch of a tick of it, and what it puts on the request
port. -/

namespace Sys2Proof.Machine

/-! `UNCONFIGURED`, armed (R87). -/

theorem sequencerNext_of_unconfigured {s : State} (hp : s.par.requester = .sequencer)
    (hs : s.sq.state = .unconfigured) : sequencerNext s = sequencerUnconfigured s := by
  simp [sequencerNext, hp, hs]

theorem sequencerUnconfigured_of_settling {s : State} (ha : s.sq.armed = true) (hr : s.inp.pinsReady = true)
    (hd : s.sq.settle < s.par.settleDelay) :
    sequencerUnconfigured s = { s.sq with settle := s.sq.settle + 1 } := by
  simp [sequencerUnconfigured, ha, hr, hd]

theorem sequencerUnconfigured_of_settled {s : State} (ha : s.sq.armed = true) (hr : s.inp.pinsReady = true)
    (hd : s.par.settleDelay ≤ s.sq.settle) :
    sequencerUnconfigured s = { s.sq with state := .configuring, step := false, issued := false } := by
  simp [sequencerUnconfigured, ha, hr, Nat.not_lt.mpr hd]

theorem sequencerUnconfigured_of_not_ready {s : State} (ha : s.sq.armed = true) (hr : s.inp.pinsReady = false) :
    sequencerUnconfigured s = s.sq := by
  simp [sequencerUnconfigured, ha, hr]

/-- Settles O39: the tick advances, and of an armed `UNCONFIGURED` sequencer `pins_ready` and the delay decide the rest. -/
theorem settleDelayCountsReadyTicks : Obligations.SettleDelayCountsReadyTicks := by
  intro s h hp hs ha
  refine ⟨advance s, tick_of_undisturbed h, ?_⟩
  rw [advance_sq, sequencerNext_of_unconfigured hp hs]
  exact ⟨sequencerUnconfigured_of_settling ha, sequencerUnconfigured_of_settled ha,
    sequencerUnconfigured_of_not_ready ha⟩

/-! The request port (R88, R89). -/

theorem portValid_iff_of_sequencer {s : State} (hp : s.par.requester = .sequencer) :
    portValid s = true ↔ s.sq.state = .configuring ∧ s.sq.issued = false := by
  simp [portValid, hp]

theorem portRequest_of_sequencer {s : State} (hp : s.par.requester = .sequencer) :
    portRequest s = sequencerRequest s.sq := by
  simp [portRequest, hp]

theorem sequencerRequest_of_first {q : Sequencer} (h : q.step = false) :
    sequencerRequest q = { dir := false, addr := 0x03#8, wdata := 0x14#8 } := by
  simp [sequencerRequest, h]

theorem sequencerRequest_of_second {q : Sequencer} (h : q.step = true) :
    sequencerRequest q = { dir := false, addr := 0x02#8, wdata := 0x02#8 } := by
  simp [sequencerRequest, h]

/-- Settles O40: the port carries the sequencer's request, and `q_step` picks which of the two; the words are computed. -/
theorem sequencerDrivesItsTwoWrites : Obligations.SequencerDrivesItsTwoWrites := by
  intro s hp
  rw [portRequest_of_sequencer hp]
  refine ⟨portValid_iff_of_sequencer hp, fun h => ?first, fun h => ?second⟩
  case first => rw [sequencerRequest_of_first h]; decide
  case second => rw [sequencerRequest_of_second h]; decide

/-! `CONFIGURING` (R90, R91). -/

theorem sequencerNext_of_configuring {s : State} (hp : s.par.requester = .sequencer)
    (hs : s.sq.state = .configuring) : sequencerNext s = sequencerConfiguring s := by
  simp [sequencerNext, hp, hs]

theorem sequencerConfiguring_of_accepted {s : State} (hi : s.sq.issued = false) (ht : s.tr.state = .idle) :
    sequencerConfiguring s = { s.sq with issued := true } := by
  simp [sequencerConfiguring, hi, ht]

theorem sequencerConfiguring_of_unaccepted {s : State} (hi : s.sq.issued = false) (ht : s.tr.state ≠ .idle) :
    sequencerConfiguring s = s.sq := by
  simp [sequencerConfiguring, hi, ht]

theorem sequencerConfiguring_of_first_done {s : State} (hi : s.sq.issued = true) (hd : s.tr.done = true)
    (hq : s.sq.step = false) : sequencerConfiguring s = { s.sq with step := true, issued := false } := by
  simp [sequencerConfiguring, hi, hd, hq]

theorem sequencerConfiguring_of_second_done {s : State} (hi : s.sq.issued = true) (hd : s.tr.done = true)
    (hq : s.sq.step = true) : sequencerConfiguring s = { s.sq with state := .parked, issued := false } := by
  simp [sequencerConfiguring, hi, hd, hq]

theorem sequencerConfiguring_of_unfinished {s : State} (hi : s.sq.issued = true) (hd : s.tr.done = false) :
    sequencerConfiguring s = s.sq := by
  simp [sequencerConfiguring, hi, hd]

/-- The request of an unissued write stands on the port, so the transport accepts it in `IDLE` (R72, R89). -/
theorem transportNext_state_of_configuring {s : State} (hp : s.par.requester = .sequencer)
    (hs : s.sq.state = .configuring) (hi : s.sq.issued = false) (ht : s.tr.state = .idle) :
    (transportNext s).state = .setup := by
  rw [transportNext_of_requested ht ((portValid_iff_of_sequencer hp).mpr ⟨hs, hi⟩)]

/-- Settles O41: the tick advances; in the accepting tick the transport moves with the sequencer, and every other clause
is a branch of the sequencer alone. -/
theorem configuringIssuesThenMovesOn : Obligations.ConfiguringIssuesThenMovesOn := by
  intro s h hp hs
  refine ⟨advance s, tick_of_undisturbed h, ?_⟩
  rw [advance_sq, advance_tr, sequencerNext_of_configuring hp hs]
  exact ⟨fun hi ht => ⟨sequencerConfiguring_of_accepted hi ht, transportNext_state_of_configuring hp hs hi ht⟩,
    sequencerConfiguring_of_unaccepted, sequencerConfiguring_of_first_done, sequencerConfiguring_of_second_done,
    sequencerConfiguring_of_unfinished⟩

end Sys2Proof.Machine
end

section
/-! The encoder and the decoder (30_encoding.md): the fields of a word, put together again and taken out of it. -/

namespace Sys2Proof

/-! A word is its fields, first field leftmost (R49, R53, R54). -/

theorem extractLsb'_one {w : Nat} (x : BitVec w) (k : Nat) : x.extractLsb' k 1 = BitVec.ofBool (x.getLsbD k) := by
  ext i hi
  obtain rfl : i = 0 := by omega
  simp

theorem fields_req17 (x : BitVec 17) :
    BitVec.ofBool (x.getLsbD 16) ++ x.extractLsb' 8 8 ++ x.extractLsb' 0 8 = x := by
  rw [← extractLsb'_one, BitVec.extractLsb'_append_extractLsb'_eq_extractLsb' (show 16 = 8 + 8 from rfl),
    BitVec.extractLsb'_append_extractLsb'_eq_extractLsb' (show 8 = 0 + 8 from rfl)]
  exact BitVec.extractLsb'_eq_self

theorem fields_cmd8 (x : Byte) :
    BitVec.ofBool (x.getLsbD 7) ++ BitVec.ofBool (x.getLsbD 6) ++ x.extractLsb' 0 6 = x := by
  rw [← extractLsb'_one, ← extractLsb'_one,
    BitVec.extractLsb'_append_extractLsb'_eq_extractLsb' (show 7 = 6 + 1 from rfl),
    BitVec.extractLsb'_append_extractLsb'_eq_extractLsb' (show 6 = 0 + 6 from rfl)]
  exact BitVec.extractLsb'_eq_self

theorem fields_frame24 (x : BitVec 24) :
    BitVec.ofBool (x.getLsbD 23) ++ BitVec.ofBool (x.getLsbD 22) ++ x.extractLsb' 16 6 ++ x.extractLsb' 8 8 ++
      x.extractLsb' 0 8 = x := by
  rw [← extractLsb'_one, ← extractLsb'_one,
    BitVec.extractLsb'_append_extractLsb'_eq_extractLsb' (show 23 = 22 + 1 from rfl),
    BitVec.extractLsb'_append_extractLsb'_eq_extractLsb' (show 22 = 16 + 6 from rfl),
    BitVec.extractLsb'_append_extractLsb'_eq_extractLsb' (show 16 = 8 + 8 from rfl),
    BitVec.extractLsb'_append_extractLsb'_eq_extractLsb' (show 8 = 0 + 8 from rfl)]
  exact BitVec.extractLsb'_eq_self

/-! The encoding of what is decoded is the word itself, format by format. -/

theorem encode_decodeReq17 (x : BitVec 17) :
    (decodeReq17 x).format = .req17 ∧ encode (decodeReq17 x) = x.toNat := by
  have hx := fields_req17 x
  unfold decodeReq17
  cases hb : x.getLsbD 16 <;> rw [hb] at hx <;> exact ⟨rfl, congrArg BitVec.toNat hx⟩

theorem encode_decodeCmd8 (x : Byte) : (decodeCmd8 x).format = .cmd8 ∧ encode (decodeCmd8 x) = x.toNat := by
  have hx := fields_cmd8 x
  unfold decodeCmd8
  cases h7 : x.getLsbD 7 <;> cases h6 : x.getLsbD 6 <;> rw [h7, h6] at hx <;>
    exact ⟨rfl, congrArg BitVec.toNat hx⟩

/-- What a frame decodes to, by its tests in their order (R53). -/
theorem decodeFrame24_ok {x : BitVec 24} {i : Instr} (h : decodeFrame24 x = .ok i) :
    x.getLsbD 22 = false ∧ x.extractLsb' 8 8 = 0xFF#8 ∧
    ((x.getLsbD 23 = true ∧ x.extractLsb' 0 8 = 0xFF#8 ∧ i = .readFrame (x.extractLsb' 16 6)) ∨
      (x.getLsbD 23 = false ∧ i = .writeFrame (x.extractLsb' 16 6) (x.extractLsb' 0 8))) := by
  unfold decodeFrame24 at h
  split_ifs at h with h22 hdummy h23 hlast <;> simp_all

theorem encode_decodeFrame24 {x : BitVec 24} {i : Instr} (h : decodeFrame24 x = .ok i) :
    i.format = .frame24 ∧ encode i = x.toNat := by
  have hx := fields_frame24 x
  obtain ⟨h22, hdummy, ⟨h23, hlast, rfl⟩ | ⟨h23, rfl⟩⟩ := decodeFrame24_ok h
  · rw [h22, h23, hdummy, hlast] at hx
    exact ⟨rfl, congrArg BitVec.toNat hx⟩
  · rw [h22, h23, hdummy] at hx
    exact ⟨rfl, congrArg BitVec.toNat hx⟩

/-- A decoded word fits its format (R59). -/
theorem decode_fits {f : Format} {w : Nat} {i : Instr} (h : decode f w = .ok i) : w < 2 ^ f.width := by
  unfold decode at h
  split at h
  · contradiction
  · omega

/-- Settles O2: by the format; within a format, the word is put together from the fields the decoder took out. -/
theorem encodeOfDecodeIsTheWord : Obligations.EncodeOfDecodeIsTheWord := by
  intro f w i h
  have hw : w < 2 ^ f.width := decode_fits h
  unfold decode at h
  rw [if_neg (Nat.not_le.mpr hw)] at h
  cases f with
  | req17 =>
    obtain rfl := Except.ok.inj h
    rw [(encode_decodeReq17 _).2]
    exact ⟨(encode_decodeReq17 _).1, Nat.mod_eq_of_lt hw⟩
  | shift8 =>
    obtain rfl := Except.ok.inj h
    exact ⟨rfl, Nat.mod_eq_of_lt hw⟩
  | pulse1 =>
    simp only at h
    split at h
    · next h1 => obtain rfl := Except.ok.inj h; exact ⟨rfl, h1.symm⟩
    · contradiction
  | cmd8 =>
    obtain rfl := Except.ok.inj h
    rw [(encode_decodeCmd8 _).2]
    exact ⟨(encode_decodeCmd8 _).1, Nat.mod_eq_of_lt hw⟩
  | byte8 =>
    simp only at h
    split at h
    · next h1 => obtain rfl := Except.ok.inj h; exact ⟨rfl, h1.symm⟩
    · contradiction
  | frame24 =>
    obtain ⟨hf, he⟩ := encode_decodeFrame24 h
    exact ⟨hf, he.trans (Nat.mod_eq_of_lt hw)⟩

/-! The fields of a word put together from them are those it was put together from. -/

theorem decodeReq17_append (d : Bool) (a v : Byte) :
    decodeReq17 (BitVec.ofBool d ++ a ++ v) = if d then .readReg a v else .writeReg a v := by
  have hd : (BitVec.ofBool d ++ a ++ v).getLsbD 16 = d := by
    simp only [BitVec.getLsbD_append]; simp
  have ha : (BitVec.ofBool d ++ a ++ v).extractLsb' 8 8 = a := by
    rw [BitVec.extractLsb'_append_eq_of_le (by decide)]; exact BitVec.extractLsb'_append_eq_right
  have hv : (BitVec.ofBool d ++ a ++ v).extractLsb' 0 8 = v := BitVec.extractLsb'_append_eq_right
  rw [decodeReq17, hd, ha, hv]

theorem decodeCmd8_append (b7 b6 : Bool) (a : Addr) :
    decodeCmd8 (BitVec.ofBool b7 ++ BitVec.ofBool b6 ++ a) =
      if b6 then (if b7 then .cmdReadAi a else .cmdWriteAi a) else if b7 then .cmdRead a else .cmdWrite a := by
  have h7 : (BitVec.ofBool b7 ++ BitVec.ofBool b6 ++ a).getLsbD 7 = b7 := by
    simp only [BitVec.getLsbD_append]; simp
  have h6 : (BitVec.ofBool b7 ++ BitVec.ofBool b6 ++ a).getLsbD 6 = b6 := by
    simp only [BitVec.getLsbD_append]; simp
  have ha : (BitVec.ofBool b7 ++ BitVec.ofBool b6 ++ a).extractLsb' 0 6 = a := BitVec.extractLsb'_append_eq_right
  rw [decodeCmd8, h7, h6, ha]
  cases b7 <;> cases b6 <;> rfl

theorem decodeFrame24_append (d : Bool) (a : Addr) (v : Byte) :
    decodeFrame24 (BitVec.ofBool d ++ BitVec.ofBool false ++ a ++ 0xFF#8 ++ v) =
      if d then (if v = 0xFF#8 then .ok (.readFrame a) else .error .notFrame) else .ok (.writeFrame a v) := by
  have h22 : (BitVec.ofBool d ++ BitVec.ofBool false ++ a ++ 0xFF#8 ++ v).getLsbD 22 = false := by
    simp only [BitVec.getLsbD_append]; simp
  have h23 : (BitVec.ofBool d ++ BitVec.ofBool false ++ a ++ 0xFF#8 ++ v).getLsbD 23 = d := by
    simp only [BitVec.getLsbD_append]; simp
  have ha : (BitVec.ofBool d ++ BitVec.ofBool false ++ a ++ 0xFF#8 ++ v).extractLsb' 16 6 = a := by
    rw [BitVec.extractLsb'_append_eq_of_le (by decide), BitVec.extractLsb'_append_eq_of_le (by decide)]
    exact BitVec.extractLsb'_append_eq_right
  have hdummy : (BitVec.ofBool d ++ BitVec.ofBool false ++ a ++ 0xFF#8 ++ v).extractLsb' 8 8 = 0xFF#8 := by
    rw [BitVec.extractLsb'_append_eq_of_le (by decide)]; exact BitVec.extractLsb'_append_eq_right
  have hv : (BitVec.ofBool d ++ BitVec.ofBool false ++ a ++ 0xFF#8 ++ v).extractLsb' 0 8 = v :=
    BitVec.extractLsb'_append_eq_right
  rw [decodeFrame24, h22, hdummy, h23, ha, hv]
  simp

/-- The word of a bit vector of the format's width decodes as the bit vector does (R59). -/
theorem ofNat_toNat_self {n : Nat} (x : BitVec n) : BitVec.ofNat n x.toNat = x := by
  rw [BitVec.ofNat_toNat, BitVec.setWidth_eq]

theorem decode_req17 (x : BitVec 17) : decode .req17 x.toNat = .ok (decodeReq17 x) := by
  have hw : ¬ 2 ^ Format.req17.width ≤ x.toNat := Nat.not_le.mpr x.isLt
  simp only [decode, hw, if_false, ofNat_toNat_self]

theorem decode_shift8 (x : Byte) : decode .shift8 x.toNat = .ok (.shift x) := by
  have hw : ¬ 2 ^ Format.shift8.width ≤ x.toNat := Nat.not_le.mpr x.isLt
  simp only [decode, hw, if_false, ofNat_toNat_self]

theorem decode_cmd8 (x : Byte) : decode .cmd8 x.toNat = .ok (decodeCmd8 x) := by
  have hw : ¬ 2 ^ Format.cmd8.width ≤ x.toNat := Nat.not_le.mpr x.isLt
  simp only [decode, hw, if_false, ofNat_toNat_self]

theorem decode_frame24 (x : BitVec 24) : decode .frame24 x.toNat = decodeFrame24 x := by
  have hw : ¬ 2 ^ Format.frame24.width ≤ x.toNat := Nat.not_le.mpr x.isLt
  simp only [decode, hw, if_false, ofNat_toNat_self]

theorem decode_dummy : decode .byte8 0xFF = .ok .dummy := rfl

theorem decode_pulse : decode .pulse1 1 = .ok .init := rfl

/-- Settles O1: by the instruction; each word is fields put together, and the decoder takes the same fields out. -/
theorem decodeOfEncodeIsTheInstruction : Obligations.DecodeOfEncodeIsTheInstruction := by
  intro i
  cases i with
  | writeReg a v => exact (decode_req17 _).trans (congrArg Except.ok (decodeReq17_append false a v))
  | readReg a v => exact (decode_req17 _).trans (congrArg Except.ok (decodeReq17_append true a v))
  | shift tx => exact decode_shift8 tx
  | init => exact decode_pulse
  | cmdWrite a => exact (decode_cmd8 _).trans (congrArg Except.ok (decodeCmd8_append false false a))
  | cmdRead a => exact (decode_cmd8 _).trans (congrArg Except.ok (decodeCmd8_append true false a))
  | cmdWriteAi a => exact (decode_cmd8 _).trans (congrArg Except.ok (decodeCmd8_append false true a))
  | cmdReadAi a => exact (decode_cmd8 _).trans (congrArg Except.ok (decodeCmd8_append true true a))
  | dummy => exact decode_dummy
  | writeFrame a v => exact (decode_frame24 _).trans (decodeFrame24_append false a v)
  | readFrame a => exact (decode_frame24 _).trans (decodeFrame24_append true a 0xFF#8)

/-- Settles O3: the decoder is run on each of the six words. -/
theorem writtenOutWordsDecode : Obligations.WrittenOutWordsDecode := by
  unfold Obligations.WrittenOutWordsDecode
  decide

end Sys2Proof

namespace Sys2Proof.Machine

/-! The command byte (R50). -/

/-- `a & 0x3F` keeps the six bits of the masked address and clears the two above (R38). -/
theorem and_mask_eq (a : Byte) : a &&& 0x3F#8 = 0b00#2 ++ maskAddr a := by
  revert a; decide

theorem commandByte_false (b : Addr) : commandByte false b = 0b00#2 ++ b := rfl

theorem commandByte_true (b : Addr) : commandByte true b = 0b10#2 ++ b := rfl

theorem or_direction_eq (b : Addr) : (0b00#2 ++ b) ||| 0x80#8 = (0b10#2 ++ b : Byte) := by
  revert b; decide

theorem commandByte_write (a : Byte) : commandByte false (maskAddr a) = a &&& 0x3F#8 := (and_mask_eq a).symm

theorem commandByte_read (a : Byte) : commandByte true (maskAddr a) = (a &&& 0x3F#8) ||| 0x80#8 := by
  rw [and_mask_eq, or_direction_eq, commandByte_true]

theorem commandByte_bit6 (d : Bool) (b : Addr) : (commandByte d b).getLsbD 6 = false := by
  cases d <;> simp only [commandByte, BitVec.getLsbD_append] <;> rfl

theorem commandByte_bit7 (d : Bool) (b : Addr) : (commandByte d b).getLsbD 7 = d := by
  cases d <;> simp only [commandByte, BitVec.getLsbD_append] <;> rfl

theorem commandByte_addr (d : Bool) (b : Addr) : (commandByte d b).extractLsb' 0 6 = b :=
  BitVec.extractLsb'_append_eq_right

/-- Settles O4: the two directions by the mask, and the command byte's fields one by one. -/
theorem commandByteIsTheMaskedAddress : Obligations.CommandByteIsTheMaskedAddress := fun a =>
  ⟨commandByte_write a, commandByte_read a,
    fun d b => ⟨commandByte_bit6 d b, commandByte_bit7 d b, commandByte_addr d b⟩⟩

/-! What the block starts (R72 to R74, R86). -/

/-- A word of the block's own making decodes to a well-formed instruction of its format. -/
def StartsWellFormed (f : Format) (w : Nat) : Prop := ∃ i, decode f w = .ok i ∧ i.format = f ∧ i.wf = true

theorem startsWellFormed_request (r : Request) : StartsWellFormed .req17 (requestWord r).toNat := by
  refine ⟨_, (decode_req17 _).trans (congrArg Except.ok (decodeReq17_append r.dir r.addr r.wdata)), ?_⟩
  cases r.dir <;> exact ⟨rfl, rfl⟩

/-- A command byte the block makes has bit 6 at 0 (R50), so it is no reserved one (R58). -/
theorem startsWellFormed_command (d : Bool) (a : Addr) : StartsWellFormed .cmd8 (commandByte d a).toNat := by
  refine ⟨_, (decode_cmd8 _).trans (congrArg Except.ok (decodeCmd8_append d false a)), ?_⟩
  cases d <;> exact ⟨rfl, rfl⟩

theorem startsWellFormed_shift (b : Byte) : StartsWellFormed .shift8 b.toNat := ⟨_, decode_shift8 b, rfl, rfl⟩

theorem startsWellFormed_dummy : StartsWellFormed .byte8 dummyByte.toNat := ⟨_, decode_dummy, rfl, rfl⟩

theorem startsWellFormed_pulse : StartsWellFormed .pulse1 1 := ⟨_, decode_pulse, rfl, rfl⟩

/-- The byte the transport starts is well formed in the format of its place (R52). -/
theorem startsWellFormed_startByte {s : State} {b : Byte} (h : startByte s = some b) :
    StartsWellFormed (startFormat s.tr) b.toNat := by
  rcases startByte_some h with ⟨hs, _, rfl⟩ | ⟨hs, _, hi, rfl⟩
  · have hf : startFormat s.tr = .cmd8 := by simp [startFormat, hs]
    rw [hf]
    exact startsWellFormed_command s.tr.dir s.tr.addr
  · rcases (idx_lt_two_iff _).mp hi with h0 | h1
    · have hf : startFormat s.tr = .byte8 := by simp [startFormat, hs, h0]
      rw [hf, h0]
      exact startsWellFormed_dummy
    · have hb : frameByte s.tr (s.tr.idx + 1) = if s.tr.dir = false then s.tr.wdata else 0xFF#8 := by
        rw [h1]; exact frameByte_two s.tr
      rw [hb]
      cases hd : s.tr.dir
      · have hf : startFormat s.tr = .shift8 := by simp [startFormat, hs, h1, hd]
        rw [hf]
        exact startsWellFormed_shift s.tr.wdata
      · have hf : startFormat s.tr = .byte8 := by simp [startFormat, hs, hd]
        rw [hf]
        exact startsWellFormed_dummy

/-- Settles O6: by what `fetch` finds, a request, a byte to start, or the pulse. -/
theorem whatTheBlockStartsIsWellFormed : Obligations.WhatTheBlockStartsIsWellFormed := by
  intro s f w h
  unfold fetch at h
  split at h
  · contradiction
  · split at h
    · obtain ⟨rfl, rfl⟩ := Prod.mk.inj (Option.some.inj h)
      exact startsWellFormed_request _
    · split at h
      · next b hb =>
        obtain ⟨rfl, rfl⟩ := Prod.mk.inj (Option.some.inj h)
        exact startsWellFormed_startByte hb
      · split at h
        · obtain ⟨rfl, rfl⟩ := Prod.mk.inj (Option.some.inj h)
          exact startsWellFormed_pulse
        · contradiction

end Sys2Proof.Machine
end

section
/-! What every tick, and so every step, keeps beside R32: the bracketed trace (R80), the peer's canonical space, and that
in `XFER` an exchange runs or has completed (R12). -/

namespace Sys2Proof.Machine

/-! The trace is bracketed (R80). -/

/-- A bracketed trace is read on from the level its beginning ends at. -/
theorem bracketed_append (cs : Bool) (l m : List BusEvent) :
    bracketed cs (l ++ m) = (bracketed cs l).bind (fun c => bracketed c m) := by
  induction l generalizing cs with
  | nil => rfl
  | cons e rest ih => cases e <;> cases cs <;> simp [bracketed, ih]

/-- An edge's events keep an open window open. -/
theorem bracketed_edgeEvents (s : State) : bracketed true (edgeEvents s) = some true := by
  unfold edgeEvents
  split <;> simp [bracketed]

/-- An acceptance is the one thing that happens in its tick, and raises chip-select (R72). -/
theorem transportNext_csAsserted_of_accepting {s : State} (h : accepting s = true) :
    (transportNext s).csAsserted = true := by
  have hs := accepting_state h
  rw [transportNext_of_requested hs (by rwa [← accepting_of_idle hs])]

/-- The release drops chip-select (R75). -/
theorem transportNext_csAsserted_of_deasserting {s : State} (h : deasserting s = true) :
    (transportNext s).csAsserted = false := by
  have hw : s.tr.wait = 0 := by simp [deasserting] at h; exact h.2
  rw [transportNext_of_hold_over (deasserting_state h) hw]

/-- Chip-select moves only at an acceptance and at a release (R16). -/
theorem transportNext_csAsserted_of_neither {s : State} (ha : accepting s = false) (hd : deasserting s = false) :
    (transportNext s).csAsserted = s.tr.csAsserted := by
  cases hs : s.tr.state with
  | idle => rw [transportNext_of_unrequested hs (by rwa [← accepting_of_idle hs])]
  | setup => rw [transportNext_of_setup hs]; unfold transportSetup; split <;> rfl
  | xfer => rw [transportNext_of_xfer hs]; unfold transportXfer; split_ifs <;> simp
  | hold =>
    have hw : 0 < s.tr.wait := Nat.pos_of_ne_zero (by simpa [deasserting, hs] using hd)
    rw [transportNext_of_waiting_hold hs hw]
  | gap => rw [transportNext_of_gap hs]; unfold transportGap; split <;> rfl

/-- What a tick puts on the trace is bracketed from chip-select before it to chip-select after it. -/
theorem bracketed_tickEvents {s : State} (h : invariants s = true) :
    bracketed s.tr.csAsserted (tickEvents s) = some (transportNext s).csAsserted := by
  obtain ⟨hsel, hsh, _, _⟩ := (invariants_iff_consistent s).mp h
  cases ha : accepting s with
  | true =>
    rw [tickEvents_of_accepting ha, transportNext_csAsserted_of_accepting ha, hsel, accepting_state ha]
    rfl
  | false =>
    cases hd : deasserting s with
    | true =>
      rw [tickEvents_of_deasserting hd, transportNext_csAsserted_of_deasserting hd, hsel, deasserting_state hd]
      rfl
    | false =>
      rw [transportNext_csAsserted_of_neither ha hd]
      cases hr : s.sh.run with
      | false => rw [tickEvents_of_quiet ha hd hr]; rfl
      | true =>
        have hcs : s.tr.csAsserted = true := by rw [hsel, hsh.run hr]; rfl
        cases he : s.inp.edgeTick with
        | true => rw [tickEvents_of_running_edge hsh hr he, hcs, bracketed_edgeEvents]
        | false => rw [tickEvents_of_running_pause hsh hr he]; rfl

theorem bracketed_tick {s t : State} (h : bracketed false s.trace = some s.tr.csAsserted) (ht : tick s = .next t) :
    bracketed false t.trace = some t.tr.csAsserted := by
  rcases tick_next ht with ⟨_, rfl⟩ | ⟨hu, rfl⟩
  · rw [resetTick_trace, bracketed_append, h]
    cases s.tr.csAsserted <;> rfl
  · rw [advance_trace, bracketed_append, h]
    exact bracketed_tickEvents (undisturbed_invariants hu)

/-- Settles O47: one tick keeps the trace bracketed up to its chip-select, and a step is made of ticks. -/
theorem everyStepKeepsTheWindows : Obligations.EveryStepKeepsTheWindows := by
  rintro s t h (hstep | htick)
  · exact step_keeps (P := fun s => bracketed false s.trace = some s.tr.csAsserted) (fun _ _ _ _ _ h => h)
      (fun _ _ => bracketed_tick) s t h hstep
  · exact bracketed_tick h htick

/-! The peer's space (R33, R48). -/

theorem memory_wf_tick {s t : State} (h : Memory.wf s.peer.mem = true) (ht : tick s = .next t) :
    Memory.wf t.peer.mem = true := by
  rcases tick_next ht with ⟨_, rfl⟩ | ⟨_, rfl⟩
  · exact h
  · exact peerNext_keeps_wf s h

/-- Settles O48: only the peer's part of a tick reaches its space. -/
theorem everyStepKeepsTheSpaceCanonical : Obligations.EveryStepKeepsTheSpaceCanonical := by
  rintro s t h (hstep | htick)
  · exact step_keeps (P := fun s => Memory.wf s.peer.mem = true) (fun _ _ _ _ _ h => h)
      (fun _ _ => memory_wf_tick) s t h hstep
  · exact memory_wf_tick h htick

/-! In `XFER` an exchange runs or has completed (R12). -/

/-- `XFER` is entered with a start, and is not left but by an acknowledge; an edge of a running exchange leaves it running
or completed (R63, R73, R74). -/
theorem exchangeAlive_advance {s : State} (h : exchangeAlive s = true) (hu : undisturbed s = true) :
    exchangeAlive (advance s) = true := by
  have hc := undisturbed_consistent hu
  cases hb : startByte s with
  | some b => simp [exchangeAlive, shifterNext_of_start hb]
  | none =>
    cases hs : s.tr.state with
    | idle =>
      have : (transportNext s).state ≠ .xfer := by
        rw [transportNext_of_idle hs]; unfold transportIdle; split <;> simp [hs]
      simp [exchangeAlive, this]
    | setup =>
      have hw : 0 < s.tr.wait := Nat.pos_of_ne_zero fun hw => by simp [startByte_of_setup_over hs hw] at hb
      simp [exchangeAlive, transportNext_of_waiting_setup hs hw, hs]
    | xfer =>
      cases ho : s.sh.ovf with
      | true =>
        have hi : ¬ s.tr.idx < 2#2 := fun hi => by simp [startByte_of_acknowledge hs ho hi] at hb
        simp [exchangeAlive, transportNext_of_last_exchange hs ho hi]
      | false =>
        have hr : s.sh.run = true := by simpa [exchangeAlive, hs, ho] using h
        cases he : s.inp.edgeTick with
        | false => simp [exchangeAlive, shifterNext_of_running_pause hc hr he, hr]
        | true =>
          by_cases hk : s.sh.cnt = 15
          · obtain ⟨_, _, ho'⟩ := shEdge_completes hk s.par (sample s)
            simp [exchangeAlive, shifterNext_of_running_edge hc hr he, ho']
          · obtain ⟨_, hr', _⟩ := shEdge_counts hk ho s.par (sample s)
            simp [exchangeAlive, shifterNext_of_running_edge hc hr he, hr']
    | hold =>
      have : (transportNext s).state ≠ .xfer := by
        rw [transportNext_of_hold hs]; unfold transportHold; split <;> simp [hs]
      simp [exchangeAlive, this]
    | gap =>
      have : (transportNext s).state ≠ .xfer := by
        rw [transportNext_of_gap hs]; unfold transportGap; split <;> simp [hs]
      simp [exchangeAlive, this]

theorem exchangeAlive_tick {s t : State} (h : exchangeAlive s = true) (ht : tick s = .next t) :
    exchangeAlive t = true := by
  rcases tick_next ht with ⟨_, rfl⟩ | ⟨hu, rfl⟩
  · rfl
  · exact exchangeAlive_advance h hu

/-- Settles O49: one tick keeps an exchange alive in `XFER`, and a step is made of ticks. -/
theorem everyStepKeepsTheExchangeAlive : Obligations.EveryStepKeepsTheExchangeAlive := by
  rintro s t h (hstep | htick)
  · exact step_keeps (P := fun s => exchangeAlive s = true) (fun _ _ _ _ _ h => h)
      (fun _ _ => exchangeAlive_tick) s t h hstep
  · exact exchangeAlive_tick h htick

end Sys2Proof.Machine
end

section
/-! One tick, register by register: who writes what (R31), and what the clock edges and the start do to the shifter
(R62, R64, R65). -/

namespace Sys2Proof.Machine

/-! The transport's moves. -/

/-- What a tick can do to the transport's registers: the branches of R72 to R76. -/
inductive TransportMove (s : State) : Transport → Prop where
  | accepts (hs : s.tr.state = .idle) (ha : accepting s = true) :
      TransportMove s { s.tr with
        dir := (portRequest s).dir, addr := maskAddr (portRequest s).addr, wdata := (portRequest s).wdata,
        idx := 0, csAsserted := true, wait := s.par.csSetup, state := .setup, done := false }
  | stands (hs : s.tr.state = .idle ∨ s.tr.state = .xfer) : TransportMove s { s.tr with done := false }
  | waits (hs : s.tr.state = .setup ∨ s.tr.state = .hold ∨ s.tr.state = .gap) (hw : 0 < s.tr.wait) :
      TransportMove s { s.tr with wait := s.tr.wait - 1, done := false }
  | starts (hs : s.tr.state = .setup) (hw : s.tr.wait = 0) : TransportMove s { s.tr with state := .xfer, done := false }
  | goesOn (hs : s.tr.state = .xfer) (ho : s.sh.ovf = true) (hi : s.tr.idx < 2#2) :
      TransportMove s { keepPayload s with idx := s.tr.idx + 1, done := false }
  | ends (hs : s.tr.state = .xfer) (ho : s.sh.ovf = true) (hi : ¬ s.tr.idx < 2#2) :
      TransportMove s { keepPayload s with wait := s.par.csHold, state := .hold, done := false }
  | releases (hs : s.tr.state = .hold) (hw : s.tr.wait = 0) :
      TransportMove s { s.tr with csAsserted := false, done := true, wait := s.par.csIdle, state := .gap }
  | rests (hs : s.tr.state = .gap) (hw : s.tr.wait = 0) : TransportMove s { s.tr with state := .idle, done := false }

theorem transportNext_of_waiting_gap {s : State} (hs : s.tr.state = .gap) (hw : 0 < s.tr.wait) :
    transportNext s = { s.tr with wait := s.tr.wait - 1, done := false } := by
  simp [transportNext_of_gap hs, transportGap, hw]

theorem transportNext_of_gap_over {s : State} (hs : s.tr.state = .gap) (hw : s.tr.wait = 0) :
    transportNext s = { s.tr with state := .idle, done := false } := by
  simp [transportNext_of_gap hs, transportGap, hw]

/-- Every tick makes one of these moves. -/
theorem transportMove (s : State) : TransportMove s (transportNext s) := by
  cases hs : s.tr.state with
  | idle =>
    cases hv : portValid s with
    | true => rw [transportNext_of_requested hs hv]; exact .accepts hs (by rw [accepting_of_idle hs, hv])
    | false => rw [transportNext_of_unrequested hs hv]; exact .stands (.inl hs)
  | setup =>
    rcases Nat.eq_zero_or_pos s.tr.wait with hw | hw
    · rw [transportNext_of_setup_over hs hw]; exact .starts hs hw
    · rw [transportNext_of_waiting_setup hs hw]; exact .waits (.inl hs) hw
  | xfer =>
    cases ho : s.sh.ovf with
    | false => rw [transportNext_of_waiting_xfer hs ho]; exact .stands (.inr hs)
    | true =>
      by_cases hi : s.tr.idx < 2#2
      · rw [transportNext_of_next_exchange hs ho hi]; exact .goesOn hs ho hi
      · rw [transportNext_of_last_exchange hs ho hi]; exact .ends hs ho hi
  | hold =>
    rcases Nat.eq_zero_or_pos s.tr.wait with hw | hw
    · rw [transportNext_of_hold_over hs hw]; exact .releases hs hw
    · rw [transportNext_of_waiting_hold hs hw]; exact .waits (.inr (.inl hs)) hw
  | gap =>
    rcases Nat.eq_zero_or_pos s.tr.wait with hw | hw
    · rw [transportNext_of_gap_over hs hw]; exact .rests hs hw
    · rw [transportNext_of_waiting_gap hs hw]; exact .waits (.inr (.inr hs)) hw

section
variable {s : State} {u : Transport} (h : TransportMove s u)
include h

/-- `t_state` stays or moves on in the order of R12. -/
theorem TransportMove.state : u.state = s.tr.state ∨ u.state = stateAfter s.tr.state := by
  cases h <;> simp_all [stateAfter]

/-- Where a state waits, `t_wait` counts down (R73, R75, R76). -/
theorem TransportMove.wait (hi : s.tr.state ≠ .idle) (hx : s.tr.state ≠ .xfer) (hw : 0 < s.tr.wait) :
    u.state = s.tr.state ∧ u.wait = s.tr.wait - 1 := by
  cases h <;> simp_all

/-- Where no state waits, `t_wait` stands as long as the state does (R15). -/
theorem TransportMove.wait_of_unwaiting (hs : s.tr.state = .idle ∨ s.tr.state = .xfer)
    (hu : u.state = s.tr.state) : u.wait = s.tr.wait := by
  cases h with
  | waits hs' _ => rcases hs with hs | hs <;> simp [hs] at hs'
  | _ => simp_all

/-- The request latch is written by an acceptance only (R13). -/
theorem TransportMove.latch (ha : accepting s = false) :
    u.dir = s.tr.dir ∧ u.addr = s.tr.addr ∧ u.wdata = s.tr.wdata := by
  cases h <;> simp_all

/-- `t_idx` is written by an acceptance and an acknowledge only (R14). -/
theorem TransportMove.idx (ha : accepting s = false) (hk : acknowledging s = false) : u.idx = s.tr.idx := by
  cases h <;> simp_all [acknowledging]

/-- `rdata` and `rdata_valid` are written by the acknowledge of a read's third exchange only (R17). -/
theorem TransportMove.rdata (hp : ¬(acknowledging s = true ∧ s.tr.idx = 2#2 ∧ s.tr.dir = true)) :
    u.rdata = s.tr.rdata ∧ u.rdataValid = s.tr.rdataValid := by
  cases h with
  | goesOn hs ho _ | ends hs ho _ =>
    have hk : keepPayload s = s.tr := keepPayload_of_discarded fun h2 => hp ⟨by simp [acknowledging, hs, ho], h2⟩
    simp [hk]
  | _ => exact ⟨rfl, rfl⟩

/-- `rdata_valid` falls by a reset only (R17). -/
theorem TransportMove.rdataValid (hv : s.tr.rdataValid = true) : u.rdataValid = true := by
  by_cases hp : acknowledging s = true ∧ s.tr.idx = 2#2 ∧ s.tr.dir = true
  · have hk : keepPayload s = { s.tr with rdata := s.sh.sr, rdataValid := true } := keepPayload_of_payload hp.2
    cases h <;> simp_all
  · rw [(h.rdata hp).2, hv]

/-- `done` is 1 after the release only (R18). -/
theorem TransportMove.done : u.done = true ↔ deasserting s = true := by
  cases h with
  | waits _ hw => simp [deasserting, Nat.ne_of_gt hw]
  | releases hs hw => simp [deasserting, hs, hw]
  | stands hs => rcases hs with hs | hs <;> simp [deasserting, hs]
  | _ => simp_all [deasserting]

end

/-! The shifter (R31). -/

/-- The clock line and the sampled bit move on an edge only (R66). -/
theorem shifterNext_lines {s : State} (he : edgeFires s = false) :
    (shifterNext s).sclk = s.sh.sclk ∧ (shifterNext s).rxbit = s.sh.rxbit := by
  cases hb : startByte s with
  | some b => simp [shifterNext_of_start hb]
  | none =>
    cases ha : acknowledging s with
    | true => simp [shifterNext_of_acknowledge hb ha]
    | false => simp [shifterNext_of_rest hb ha he]

/-- The register, the counter, `sh_run` and `sdo` move by a start or an edge only (R62, R63). -/
theorem shifterNext_of_no_start {s : State} (hb : startByte s = none) (he : edgeFires s = false) :
    (shifterNext s).sr = s.sh.sr ∧ (shifterNext s).cnt = s.sh.cnt ∧ (shifterNext s).run = s.sh.run ∧
      (shifterNext s).sdo = s.sh.sdo := by
  cases ha : acknowledging s with
  | true => simp [shifterNext_of_acknowledge hb ha]
  | false => simp [shifterNext_of_rest hb ha he]

/-- `sh_ovf` is set by the 16th edge only (R63). -/
theorem edge_of_ovf_rises {s : State} (h0 : s.sh.ovf = false) (h1 : (shifterNext s).ovf = true) :
    edgeFires s = true ∧ s.sh.cnt = 15#4 := by
  cases hb : startByte s with
  | some b => simp [shifterNext_of_start hb] at h1
  | none =>
    cases ha : acknowledging s with
    | true => simp [shifterNext_of_acknowledge hb ha] at h1
    | false =>
      cases he : edgeFires s with
      | true => simpa [shifterNext_of_edge hb ha he, shEdge, h0] using h1
      | false => simp [shifterNext_of_rest hb ha he, h0] at h1

/-- `sh_ovf` is cleared by an acknowledge only: where it is 1 the transport is in `XFER` (R32 item 3, R74). -/
theorem acknowledging_of_ovf {s : State} (hc : s.sh.Consistent s.par s.tr.state) (h : s.sh.ovf = true) :
    acknowledging s = true := by
  simp [acknowledging, h, (hc.ovf h).2]

/-! The sequencer (R85). -/

/-- The sequencer's state stays or moves on in the order of R85. -/
theorem sequencerNext_state (s : State) :
    (sequencerNext s).state = s.sq.state ∨ (sequencerNext s).state = sequenceAfter s.sq.state := by
  cases hp : s.par.requester with
  | host => rw [sequencerNext_of_host hp]; exact .inl rfl
  | sequencer =>
    cases hs : s.sq.state with
    | unconfigured =>
      rw [sequencerNext_of_unconfigured hp hs]; unfold sequencerUnconfigured
      split_ifs <;> simp [hs, sequenceAfter]
    | configuring =>
      rw [sequencerNext_of_configuring hp hs]; unfold sequencerConfiguring
      split_ifs <;> simp [hs, sequenceAfter]
    | parked => rw [sequencerNext_of_parked hs]; exact .inl hs

/-- Unarmed, the sequencer stands without a pulse (R86). -/
theorem sequencerNext_of_unarmed {s : State} (hs : s.sq.state = .unconfigured) (ha : s.sq.armed = false)
    (hg : s.inp.initGo = false) : sequencerNext s = s.sq := by
  cases hp : s.par.requester with
  | host => exact sequencerNext_of_host hp
  | sequencer => simp [sequencerNext_of_unconfigured hp hs, sequencerUnconfigured, ha, hg]

/-- A tick without reset that answers a next state advances. -/
theorem tick_next_of_unreset {s t : State} (hr : s.inp.rst = false) (h : tick s = .next t) :
    undisturbed s = true ∧ t = advance s := by
  rcases tick_next h with ⟨hr', _⟩ | hu
  · simp [hr] at hr'
  · exact hu

/-- Settles O51: the tick advances; the transport makes one of its moves, and the shifter and the sequencer go by their
cases. -/
theorem eachRegisterHasItsWriter : Obligations.EachRegisterHasItsWriter := by
  intro s t hr h
  obtain ⟨hu, rfl⟩ := tick_next_of_unreset hr h
  have hc := undisturbed_consistent hu
  have hm := transportMove s
  exact ⟨hm.state, hm.wait, hm.wait_of_unwaiting, hm.latch, hm.idx, hm.rdata, hm.rdataValid,
    transportNext_csAsserted_of_neither, hm.done, shifterNext_lines, shifterNext_of_no_start, edge_of_ovf_rises,
    fun ho _ => acknowledging_of_ovf hc ho,
    fun hs hx => shifterNext_of_not_xfer hc hx (by cases hst : s.tr.state <;> simp_all [startByte]),
    sequencerNext_state s, sequencerNext_of_unarmed, sequencerNext_of_host, rfl, rfl⟩

/-! What starts an exchange, and what it starts with. -/

/-- With a byte to start nothing reaches the bus (R70). -/
theorem tickEvents_of_start {s : State} {b : Byte} (hc : s.sh.Consistent s.par s.tr.state) (hb : startByte s = some b) :
    tickEvents s = [] := by
  have hr : s.sh.run = false := run_eq_false_of_start hc hb
  rcases startByte_some hb with ⟨hs, _, _⟩ | ⟨hs, _, _, _⟩ <;>
    exact tickEvents_of_quiet (by simp [accepting, hs]) (by simp [deasserting, hs]) hr

/-- Settles O8: the start is what happens to the shifter, and it was at rest with its clock at `P_CPOL`. -/
theorem startLoadsTheShifter : Obligations.StartLoadsTheShifter := by
  intro s b h hb
  have hc := undisturbed_consistent h
  have hclk : s.sh.sclk = s.par.cpol := sclk_of_stopped hc (run_eq_false_of_start hc hb)
  refine ⟨advance s, tick_of_undisturbed h, ?_, ?_, by simp [tickEvents_of_start hc hb]⟩
  · rw [advance_sh, shifterNext_of_start hb]
    cases hp : s.par.cpha <;> simp [shStart, hp]
  · rw [advance_sh, shifterNext_of_start hb, shStart_sclk, hclk]

/-! The two edges of a pulse (R64, R65). -/

theorem samplingEdge_iff (c : Bool) (k : BitVec 4) : samplingEdge c k = true ↔ k.getLsbD 0 = c := by
  simp [samplingEdge]

/-- With `P_CPHA = 0` the sampling edge keeps the bit aside (R64). -/
theorem shEdge_of_sampling_first {p : Params} {h : Shifter} (hp : p.cpha = false) (hk : h.cnt.getLsbD 0 = false)
    (x : Bool) : (shEdge p h x).rxbit = x ∧ (shEdge p h x).sr = h.sr ∧ (shEdge p h x).sdo = h.sdo := by
  simp only [shEdge, shiftEdge, hp, hk, countEdge_rxbit, countEdge_sr, countEdge_sdo, and_self]

/-- With `P_CPHA = 1` the sampling edge shifts the bit in (R64). -/
theorem shEdge_of_sampling_second {p : Params} {h : Shifter} (hp : p.cpha = true) (hk : h.cnt.getLsbD 0 = true)
    (x : Bool) : (shEdge p h x).rxbit = h.rxbit ∧ (shEdge p h x).sr = shiftIn h.sr x ∧ (shEdge p h x).sdo = h.sdo := by
  simp only [shEdge, shiftEdge, hp, hk, countEdge_rxbit, countEdge_sr, countEdge_sdo, and_self]

/-- With `P_CPHA = 0` the other edge shifts the kept bit in and shows the next one (R65). -/
theorem shEdge_of_shifting_second {p : Params} {h : Shifter} (hp : p.cpha = false) (hk : h.cnt.getLsbD 0 = true)
    (x : Bool) : (shEdge p h x).rxbit = h.rxbit ∧ (shEdge p h x).sr = shiftIn h.sr h.rxbit ∧
      (shEdge p h x).sdo = if h.cnt = 15 then h.sdo else h.sr.getLsbD 6 := by
  simp only [shEdge, shiftEdge, hp, hk, countEdge_rxbit, countEdge_sr, countEdge_sdo, and_self]

/-- With `P_CPHA = 1` the other edge shows the next bit (R65). -/
theorem shEdge_of_shifting_first {p : Params} {h : Shifter} (hp : p.cpha = true) (hk : h.cnt.getLsbD 0 = false)
    (x : Bool) : (shEdge p h x).rxbit = h.rxbit ∧ (shEdge p h x).sr = h.sr ∧
      (shEdge p h x).sdo = h.sr.getLsbD 7 := by
  simp only [shEdge, shiftEdge, hp, hk, countEdge_rxbit, countEdge_sr, countEdge_sdo, and_self]

theorem edgeEvents_of_sampling {s : State} (hk : samplingEdge s.par.cpha s.sh.cnt = true) :
    edgeEvents s = [.sampled s.sh.cnt (sample s),
      .edge s.sh.cnt (shEdge s.par s.sh (sample s)).sclk (shEdge s.par s.sh (sample s)).sdo] := by
  simp [edgeEvents, hk]

theorem edgeEvents_of_shifting {s : State} (hk : samplingEdge s.par.cpha s.sh.cnt = false) :
    edgeEvents s = [.edge s.sh.cnt (shEdge s.par s.sh (sample s)).sclk (shEdge s.par s.sh (sample s)).sdo] := by
  simp [edgeEvents, hk]

/-- Settles O11: a clock edge happens, it samples, and by the phase the bit is kept aside or shifted in. -/
theorem samplingEdgeReadsTheLine : Obligations.SamplingEdgeReadsTheLine := by
  intro s h hr he hk
  have hc := undisturbed_consistent h
  refine ⟨advance s, sample s, tick_of_undisturbed h, fun ha => by simp [sample, ha], ?_, fun hp => ?first,
    fun hp => ?second, rfl⟩
  · rw [advance_trace, advance_sh, shifterNext_of_running_edge hc hr he, tickEvents_of_running_edge hc hr he,
      edgeEvents_of_sampling ((samplingEdge_iff _ _).mpr hk)]
  case first =>
    rw [advance_sh, shifterNext_of_running_edge hc hr he]
    exact shEdge_of_sampling_first hp (hk.trans hp) _
  case second =>
    rw [advance_sh, shifterNext_of_running_edge hc hr he]
    exact shEdge_of_sampling_second hp (hk.trans hp) _

/-- Settles O12: a clock edge happens, it does not sample, and by the phase it shifts or shows the next bit. -/
theorem otherEdgeMovesTheRegister : Obligations.OtherEdgeMovesTheRegister := by
  intro s h hr he hk
  have hc := undisturbed_consistent h
  have hn : samplingEdge s.par.cpha s.sh.cnt = false := Bool.eq_false_iff.mpr (mt (samplingEdge_iff _ _).mp hk)
  refine ⟨advance s, tick_of_undisturbed h, ?_⟩
  rw [advance_trace, advance_sh, shifterNext_of_running_edge hc hr he, tickEvents_of_running_edge hc hr he,
    edgeEvents_of_shifting hn]
  cases hp : s.par.cpha with
  | false =>
    have hk1 : s.sh.cnt.getLsbD 0 = true := by simpa [hp] using hk
    obtain ⟨hx, hsr, hsdo⟩ := shEdge_of_shifting_second hp hk1 (sample s)
    exact ⟨rfl, hx, fun _ => ⟨hsr, hsdo⟩, by simp⟩
  | true =>
    have hk0 : s.sh.cnt.getLsbD 0 = false := by simpa [hp] using hk
    obtain ⟨hx, hsr, hsdo⟩ := shEdge_of_shifting_first hp hk0 (sample s)
    exact ⟨rfl, hx, by simp, fun _ => ⟨hsr, hsdo⟩⟩

end Sys2Proof.Machine
end

section
/-! Where an instruction stops, and where a tick does (R56, R58, R97). -/

namespace Sys2Proof.Machine

theorem exchange_of_running {s : State} (hr : s.inp.rst = false) (hrun : s.sh.run = true) (place : Bool) (b : Byte) :
    exchange place b s = .fault .shifterBusy := by
  simp [exchange, hr, hrun]

/-- Settles O9: SHIFT and the bytes of a frame are exchanges, and an exchange tests `sh_run` first. -/
theorem startWhileRunningFaults : Obligations.StartWhileRunningFaults := fun _ _ _ hr hrun =>
  ⟨exchange_of_running hr hrun _ _, exchange_of_running hr hrun _ _, exchange_of_running hr hrun _ _,
    exchange_of_running hr hrun _ _⟩

theorem exchange_of_unissued {s : State} (hr : s.inp.rst = false) (hrun : s.sh.run = false) {place : Bool} {b : Byte}
    (h : startByte s ≠ some b ∨ place = false) : exchange place b s = .refused .notIssued := by
  rcases h with h | h <;> simp [exchange, hr, hrun, h]

/-- Settles O35: each of the four is an exchange of its byte, with its place in the frame to be tested. -/
theorem unissuedBytesAreRefused : Obligations.UnissuedBytesAreRefused := by
  intro tx a s hr hrun
  refine ⟨fun h => exchange_of_unissued hr hrun (.inl h),
    fun h => exchange_of_unissued hr hrun (h.imp id fun hs => by simp [hs]),
    fun h => exchange_of_unissued hr hrun (h.imp id fun hs => by simp [hs]),
    fun h => exchange_of_unissued hr hrun (h.imp id fun hs => ?_)⟩
  rcases hs with hs | ⟨hi, hd⟩
  · simp [hs]
  · simp [hd, show s.tr.idx ≠ 0#2 from hi]

/-- Settles O36: the two reserved bytes have no meaning to run. -/
theorem reservedCommandsAreRefused : Obligations.ReservedCommandsAreRefused := fun _ _ => ⟨rfl, rfl⟩

/-- Without the reference peer nothing is undefined at it (R48). -/
theorem peerUndefined_of_unattached {s : State} (h : s.attached ≠ .reference) : peerUndefined s = false := by
  simp [peerUndefined, h]

/-- Settles O50: the tests of a tick in their order, each with the outcome it stops in. -/
theorem tickFaultsExactlyWhenADutyIsBroken : Obligations.TickFaultsExactlyWhenADutyIsBroken := by
  intro s ha hr
  have hp := peerUndefined_of_unattached ha
  cases hi : invariants s with
  | false => simp [tick, undisturbed, hr, hi]
  | true =>
    by_cases hd : s.pinsSeen = true ∧ s.inp.pinsReady = false
    · simp [tick, undisturbed, hr, hi, hd]
    · have hd' : (s.pinsSeen && !s.inp.pinsReady) = false := by simpa using hd
      have hready : s.pinsSeen = true → s.inp.pinsReady = true := by simpa using hd
      by_cases hv : s.inp.takeRdata = true ∧ s.tr.rdataValid = false
      · have ht : tick s = .fault .rdataUnwritten := by simp [tick, hr, hi, hd', hv]
        have hu : undisturbed s = false := by simp [undisturbed, hv]
        exact ⟨by simp [ht], by simpa [ht] using hready, by simpa [ht, hv] using hready, by simp [ht, hu]⟩
      · have hv' : (s.inp.takeRdata && !s.tr.rdataValid) = false := by simpa using hv
        have hu : undisturbed s = true := by simp [undisturbed, hr, hi, hd', hv', hp]
        have ht : tick s = .next (advance s) := tick_of_undisturbed hu
        refine ⟨by simp [ht], by simpa [ht] using hready, ?_, by simp [ht, hu]⟩
        simp only [ht, reduceCtorEq, false_iff]
        exact fun ⟨_, _, htake, hvalid⟩ => hv ⟨htake, hvalid⟩

/-! The pins (R16, R22). -/

/-- Settles O52: chip-select is asserted as its state says, and a stopped clock stands at `P_CPOL`. -/
theorem pinsFollowTheTransport : Obligations.PinsFollowTheTransport := by
  intro s h
  obtain ⟨hsel, hsh, _, _⟩ := (invariants_iff_consistent s).mp h
  refine ⟨?_, sclk_of_stopped hsh⟩
  cases hs : s.tr.state <;> simp [csPin, hsel, hs, selecting]

/-- Settles O53: the tick advances, and whether it takes a result is the direction's and the requester's to say. -/
theorem hostTakesTheResultAtDone : Obligations.HostTakesTheResultAtDone := by
  intro s h hp hd hv
  refine ⟨advance s, tick_of_undisturbed h, fun hr => ?_, fun hw ht => ?_⟩
  · simp [resultsNext, takesResult, hp, hd, hv, hr]
  · simp [resultsNext, takesResult, hw, ht]

/-- Settles O45: every field of the launch state is written out in its definition. -/
theorem launchStateIsTheResetTable : Obligations.LaunchStateIsTheResetTable := by
  intro p d i
  have hi : invariants (State.launch p d i) = true := by simp [invariants_iff, State.launch, selecting]
  refine ⟨hi, rfl, rfl, rfl, rfl, rfl, rfl, rfl, rfl, rfl, rfl, rfl, rfl, rfl, rfl, rfl, rfl, ?_⟩
  simp [sleepReq, State.launch]

/-! The step (R9). -/

theorem runWord_of_decode {f : Format} {w : Nat} {i : Instr} (h : decode f w = .ok i) (s : State) :
    runWord f w s = exec i s := by
  simp [runWord, h]

theorem step_of_slot {s : State} {f : Format} {w : Nat} (h : s.slot = some (f, w)) :
    step s = runWord f w { s with slot := none } := by
  simp [step, h]

theorem step_of_fetch {s : State} {f : Format} {w : Nat} (h : s.slot = none) (hf : fetch (drive s) = some (f, w)) :
    step s = runWord f w (drive s) := by
  simp [step, h, hf]

theorem step_of_no_fetch {s : State} (h : s.slot = none) (hf : fetch (drive s) = none) :
    step s = tick (drive s) := by
  simp [step, h, hf]

/-- Settles O5: by where the step's word comes from. -/
theorem stepRunsTheDecodedInstruction : Obligations.StepRunsTheDecodedInstruction :=
  ⟨fun _ _ _ _ hs hd _ => (step_of_slot hs).trans (runWord_of_decode hd _),
    fun _ _ _ _ hs hf hd _ => (step_of_fetch hs hf).trans (runWord_of_decode hd _),
    fun _ hs hf => step_of_no_fetch hs hf⟩

end Sys2Proof.Machine
end

section
/-! The pins a requester drives: where a tick looks at them and where it does not (R77, R86, R102). -/

namespace Sys2Proof.Machine

/-- The state with other levels on `req_valid`, the request lines and `init_go`. -/
def repin (v : Bool) (r : Request) (g : Bool) (s : State) : State :=
  { s with inp := { s.inp with reqValid := v, req := r, initGo := g } }

/-- `present` drives two of these pins. -/
theorem present_eq_repin (r : Request) (s : State) : present r s = repin true r s.inp.initGo s := rfl

/-- `INIT` drives the third. -/
theorem execInit_eq (s : State) : exec .init s = tick (repin s.inp.reqValid s.inp.req true s) := rfl

/-- The pins reach a tick through the transport, the acceptance and the sequencer alone. -/
theorem tick_repin {v : Bool} {r : Request} {g : Bool} {s : State}
    (htr : transportNext (repin v r g s) = transportNext s) (hacc : accepting (repin v r g s) = accepting s)
    (hsq : sequencerNext (repin v r g s) = sequencerNext s) : tick (repin v r g s) = tick s := by
  have hpeer : peerNext (repin v r g s) = peerNext s := by unfold peerNext; rw [hacc]; rfl
  have hev : tickEvents (repin v r g s) = tickEvents s := by unfold tickEvents; rw [hacc]; rfl
  have hadv : advance (repin v r g s) = advance s := by unfold advance; rw [htr, hsq, hpeer, hev]; rfl
  unfold tick
  rw [hadv]
  rfl

/-- Outside `IDLE` the transport does not look at the pins (R77). -/
theorem transportNext_repin_of_busy {s : State} (h : s.tr.state ≠ .idle) (v : Bool) (r : Request) (g : Bool) :
    transportNext (repin v r g s) = transportNext s := by
  cases hs : s.tr.state with
  | idle => exact absurd hs h
  | setup => rw [transportNext_of_setup hs]; exact transportNext_of_setup (s := repin v r g s) hs
  | xfer => rw [transportNext_of_xfer hs]; exact transportNext_of_xfer (s := repin v r g s) hs
  | hold => rw [transportNext_of_hold hs]; exact transportNext_of_hold (s := repin v r g s) hs
  | gap => rw [transportNext_of_gap hs]; exact transportNext_of_gap (s := repin v r g s) hs

/-- Outside `IDLE` nothing is accepted (R72). -/
theorem accepting_of_busy {s : State} (h : s.tr.state ≠ .idle) : accepting s = false := by
  simp [accepting, h]

/-- A request that is not accepted is the tick with it on the port. -/
theorem transact_of_unaccepted {r : Request} {s : State} (h : accepting (present r s) = false) :
    transact r s = tick (present r s) := by
  simp [transact, h]

/-- A request presented outside `IDLE` is the tick without it (R77). -/
theorem transact_of_busy {s : State} (h : s.tr.state ≠ .idle) (r : Request) : transact r s = tick s := by
  rw [transact_of_unaccepted (accepting_of_busy (s := present r s) h), present_eq_repin]
  exact tick_repin (transportNext_repin_of_busy h _ _ _)
    ((accepting_of_busy (s := repin true r s.inp.initGo s) h).trans (accepting_of_busy h).symm) rfl

/-- Settles O24: the four forms each present one request. -/
theorem busyRequestHasNoEffect : Obligations.BusyRequestHasNoEffect := fun _ _ _ _ _ h =>
  ⟨transact_of_busy h _, transact_of_busy h _, transact_of_busy h _, transact_of_busy h _⟩

/-- The transport looks at the pins through `req_valid` and the request at the port alone. -/
theorem transportNext_repin {v : Bool} {r : Request} {g : Bool} {s : State}
    (hv : portValid (repin v r g s) = portValid s) (hr : portRequest (repin v r g s) = portRequest s) :
    transportNext (repin v r g s) = transportNext s := by
  by_cases h : s.tr.state = .idle
  · have h' : (repin v r g s).tr.state = .idle := h
    rw [transportNext_of_idle h', transportNext_of_idle h, transportIdle, transportIdle, hv, hr]
    rfl
  · exact transportNext_repin_of_busy h v r g

/-- Settles O38: in a SEQUENCER build neither `req_valid` nor the request at the port is a pin. -/
theorem sequencerBuildHasNoRequestPins : Obligations.SequencerBuildHasNoRequestPins := by
  intro s r hp
  have hv : portValid (present r s) = portValid s := by unfold portValid; rw [present_par, hp]; rfl
  have hr : portRequest (present r s) = portRequest s := by unfold portRequest; rw [present_par, hp]; rfl
  have hacc : accepting (present r s) = accepting s := by unfold accepting; rw [hv]; rfl
  exact tick_repin (g := s.inp.initGo) (transportNext_repin hv hr) hacc rfl

/-! The address (R38). -/

theorem portValid_present {s : State} (hp : s.par.requester = .host) (r : Request) : portValid (present r s) = true := by
  simp [portValid, hp]

theorem portRequest_present {s : State} (hp : s.par.requester = .host) (r : Request) :
    portRequest (present r s) = r := by
  simp [portRequest, hp]

/-- Two requests of a host that differ in bits 7:6 of the address make the same tick. -/
theorem tick_present_of_maskAddr_eq {s : State} (hp : s.par.requester = .host) {d : Bool} {a b v : Byte}
    (h : maskAddr a = maskAddr b) :
    tick (present { dir := d, addr := a, wdata := v } s) = tick (present { dir := d, addr := b, wdata := v } s) := by
  have htr : transportNext (present { dir := d, addr := a, wdata := v } s) =
      transportNext (present { dir := d, addr := b, wdata := v } s) := by
    by_cases hs : s.tr.state = .idle
    · rw [transportNext_of_requested (s := present _ s) hs (portValid_present hp _),
        transportNext_of_requested (s := present _ s) hs (portValid_present hp _), portRequest_present hp,
        portRequest_present hp]
      simp only [h]
      rfl
    · exact transportNext_repin_of_busy (s := present _ s) hs _ _ _
  exact tick_repin (v := true) (g := s.inp.initGo) (s := present { dir := d, addr := b, wdata := v } s) htr
    (by simp only [accepting]; rw [portValid_present hp]; exact congrArg _ (portValid_present hp _)) rfl

theorem transact_of_maskAddr_eq {s : State} (hp : s.par.requester = .host) {d : Bool} {a b v : Byte}
    (h : maskAddr a = maskAddr b) :
    transact { dir := d, addr := a, wdata := v } s = transact { dir := d, addr := b, wdata := v } s := by
  simp only [transact, accepting, portValid_present hp, portRequest_present hp, tick_present_of_maskAddr_eq hp h]
  rfl

/-- Equal low bits are equal masked addresses. -/
theorem maskAddr_eq_of_and_eq {a b : Byte} (h : a &&& 0x3F#8 = b &&& 0x3F#8) : maskAddr a = maskAddr b := by
  rw [← commandByte_write, ← commandByte_write] at h
  rw [← commandByte_addr false (maskAddr a), h, commandByte_addr]

/-- Settles O29: both operations are a request, and a request is its masked address. -/
theorem addressTopBitsHaveNoEffect : Obligations.AddressTopBitsHaveNoEffect := fun _ _ _ _ hp h =>
  ⟨transact_of_maskAddr_eq hp (maskAddr_eq_of_and_eq h), transact_of_maskAddr_eq hp (maskAddr_eq_of_and_eq h)⟩

/-! The pulse (R86). -/

/-- Only a fresh sequencer looks at `init_go`. -/
theorem sequencerNext_repin {s : State}
    (h : ¬(s.par.requester = .sequencer ∧ s.sq.state = .unconfigured ∧ s.sq.armed = false)) (v : Bool) (r : Request)
    (g : Bool) : sequencerNext (repin v r g s) = sequencerNext s := by
  cases hp : s.par.requester with
  | host => rw [sequencerNext_of_host hp]; exact sequencerNext_of_host (s := repin v r g s) hp
  | sequencer =>
    cases hs : s.sq.state with
    | unconfigured =>
      have ha : s.sq.armed = true := by simpa [hp, hs] using h
      rw [sequencerNext_of_unconfigured hp hs, sequencerNext_of_unconfigured (s := repin v r g s) hp hs]
      simp [sequencerUnconfigured, repin, ha]
    | configuring =>
      rw [sequencerNext_of_configuring hp hs, sequencerNext_of_configuring (s := repin v r g s) hp hs]
      rfl
    | parked => rw [sequencerNext_of_parked hs]; exact sequencerNext_of_parked (s := repin v r g s) hs

/-- `init_go` alone reaches neither the transport nor the port. -/
theorem tick_initGo {s : State}
    (h : ¬(s.par.requester = .sequencer ∧ s.sq.state = .unconfigured ∧ s.sq.armed = false)) (g : Bool) :
    tick (repin s.inp.reqValid s.inp.req g s) = tick s :=
  tick_repin (transportNext_repin rfl rfl) rfl (sequencerNext_repin h _ _ _)

/-- Settles O37: a fresh sequencer is armed by the pulse and stands without it, and nothing else looks at it. -/
theorem initArmsOnce : Obligations.InitArmsOnce := by
  intro s
  refine ⟨fun hp hs ha hu => ?fresh, fun h => ?ignored⟩
  case fresh =>
    have harmed : sequencerNext (repin s.inp.reqValid s.inp.req true s) = { s.sq with armed := true, settle := 0 } := by
      rw [sequencerNext_of_unconfigured (s := repin s.inp.reqValid s.inp.req true s) hp hs]
      simp [sequencerUnconfigured, repin, ha]
    have hstands : sequencerNext (repin s.inp.reqValid s.inp.req false s) = s.sq :=
      sequencerNext_of_unarmed (s := repin s.inp.reqValid s.inp.req false s) hs ha rfl
    exact ⟨advance (repin s.inp.reqValid s.inp.req true s), advance (repin s.inp.reqValid s.inp.req false s),
      tick_of_undisturbed (s := repin _ _ _ s) hu, harmed, tick_of_undisturbed (s := repin _ _ _ s) hu, hstands, rfl⟩
  case ignored =>
    rw [execInit_eq, tick_initGo h]
    exact (tick_initGo h false).symm

end Sys2Proof.Machine
end

section
/-! The requester's program (R60): what each statement at its head drives, and the step that follows. -/

namespace Sys2Proof.Machine

/-! What the head of the program drives, outside a reset tick and where the program does not wait. -/

theorem driveRequest_of_ready {s : State} (hw : waiting s = false) (hs : s.tr.state = .idle)
    (hp : s.par.requester = .host) (r : Request) (rest : List Stmt) :
    driveRequest r rest s = { present r (holdLow s) with prog := rest, awaiting := true } := by
  simp [driveRequest, hw, hs, hp]

theorem drive_of_wr {s : State} {a v : Byte} {rest : List Stmt} (hr : s.inp.rst = false)
    (hq : s.prog = .wr a v :: rest) : drive s = driveRequest { dir := false, addr := a, wdata := v } rest s := by
  simp [drive, hr, hq]

theorem drive_of_rd {s : State} {a : Byte} {rest : List Stmt} (hr : s.inp.rst = false)
    (hq : s.prog = .rd a :: rest) : drive s = driveRequest { dir := true, addr := a, wdata := 0 } rest s := by
  simp [drive, hr, hq]

theorem drive_of_init {s : State} {rest : List Stmt} (hr : s.inp.rst = false) (hw : waiting s = false)
    (hq : s.prog = .init :: rest) :
    drive s = { s with inp := { s.inp with reqValid := false, initGo := true }, prog := rest } := by
  simp [drive, hr, hq, hw]

theorem drive_of_idle {s : State} {rest : List Stmt} (hr : s.inp.rst = false) (hw : waiting s = false)
    (hq : s.prog = .idle :: rest) : drive s = { holdLow s with prog := rest } := by
  simp [drive, hr, hq, hw]

theorem drive_of_rst {s : State} (hr : s.inp.rst = true) : drive s = s := by
  simp [drive, hr]

/-! `WR` and `RD`. -/

theorem fetch_of_accepting {s : State} (hr : s.inp.rst = false) (ha : accepting s = true) :
    fetch s = some (.req17, (requestWord (portRequest s)).toNat) := by
  simp [fetch, hr, ha]

theorem decode_requestWord (r : Request) :
    decode .req17 (requestWord r).toNat =
      .ok (if r.dir then .readReg r.addr r.wdata else .writeReg r.addr r.wdata) :=
  (decode_req17 _).trans (congrArg Except.ok (decodeReq17_append r.dir r.addr r.wdata))

/-- A ready host: its build, its transport, its tick. -/
theorem hostReady_iff (s : State) :
    hostReady s = true ↔ s.par.requester = .host ∧ s.tr.state = .idle ∧ undisturbed s = true := by
  simp [hostReady, and_assoc]

/-- Where the program drives the request `r` at a ready block, the step runs it. -/
theorem step_of_driven_request {s : State} {r : Request} {rest : List Stmt} (hslot : s.slot = none)
    (hready : hostReady s = true) (hw : waiting s = false) (hd : drive s = driveRequest r rest s) :
    step s = exec (if r.dir then .readReg r.addr r.wdata else .writeReg r.addr r.wdata) (drive s) ∧
      (drive s).prog = rest ∧ (drive s).awaiting = true ∧ hostReady (drive s) = true := by
  obtain ⟨hp, hs, hu⟩ := (hostReady_iff s).mp hready
  have hready' : hostReady (drive s) = true := by
    rw [hostReady_iff, drive_par, drive_tr, drive_undisturbed]; exact ⟨hp, hs, hu⟩
  rw [driveRequest_of_ready hw hs hp] at hd
  have hv : portValid (drive s) = true := by simp [portValid, hp, hd]
  have hreq : portRequest (drive s) = r := by simp [portRequest, hp, hd]
  have ha : accepting (drive s) = true := by rw [accepting_of_idle (by rw [drive_tr, hs]), hv]
  have hf := fetch_of_accepting (by rw [drive_rst, undisturbed_rst hu]) ha
  rw [hreq] at hf
  refine ⟨(step_of_fetch hslot hf).trans (runWord_of_decode (decode_requestWord r) _), ?_, ?_, hready'⟩ <;> rw [hd]

/-- Settles O7: the program drives the write's request, and the step runs what is fetched from the port. -/
theorem programWriteRunsItsRequest : Obligations.ProgramWriteRunsItsRequest := by
  intro s a v rest hslot hq hready hw
  have hd := drive_of_wr (undisturbed_rst ((hostReady_iff s).mp hready).2.2) hq
  obtain ⟨hstep, hprog, haw, hready'⟩ := step_of_driven_request hslot hready hw hd
  exact ⟨drive s, hstep, hprog, haw, drive_tr s, drive_sh s, drive_env s, hready'⟩

/-- Settles O54: as for `WR`, with the payload field at 0. -/
theorem programReadRunsItsRequest : Obligations.ProgramReadRunsItsRequest := by
  intro s a rest hslot hq hready hw
  have hd := drive_of_rd (undisturbed_rst ((hostReady_iff s).mp hready).2.2) hq
  obtain ⟨hstep, hprog, haw, hready'⟩ := step_of_driven_request hslot hready hw hd
  exact ⟨drive s, hstep, hprog, haw, drive_tr s, drive_sh s, drive_env s, hready'⟩

/-! A tick in `IDLE` with nothing requested, and `INIT` and `IDLE`. -/

/-- With nothing on the port an idle block stands (R72). -/
theorem advance_of_unrequested {s : State} (hu : undisturbed s = true) (hs : s.tr.state = .idle)
    (hv : portValid s = false) : (advance s).tr = { s.tr with done := false } ∧ (advance s).sh = s.sh ∧
      (advance s).trace = s.trace := by
  have hc := undisturbed_consistent hu
  have hx : s.tr.state ≠ .xfer := by simp [hs]
  have hev : tickEvents s = [] := tickEvents_of_quiet (by rw [accepting_of_idle hs, hv]) (by simp [deasserting, hs])
    (run_eq_false_of_not_xfer hc hx)
  exact ⟨transportNext_of_unrequested hs hv, shifterNext_of_not_xfer hc hx (startByte_of_idle hs), by simp [hev]⟩

/-- An unconfigured or parked sequencer has nothing on the port (R89). -/
theorem portValid_of_not_configuring {s : State} (hp : s.par.requester = .sequencer)
    (hq : s.sq.state ≠ .configuring) : portValid s = false :=
  Bool.eq_false_iff.mpr fun h => hq ((portValid_iff_of_sequencer hp).mp h).1

/-- A host that holds `req_valid` low has nothing on the port. -/
theorem portValid_of_low {s : State} (hp : s.par.requester = .host) (hv : s.inp.reqValid = false) :
    portValid s = false := by
  simp [portValid, hp, hv]

/-- In `IDLE` with nothing on the port, a step can only begin with a pulse to the sequencer. -/
theorem fetch_of_unrequested {s : State} (hr : s.inp.rst = false) (hs : s.tr.state = .idle)
    (hv : portValid s = false) :
    fetch s = if s.inp.initGo && decide (s.par.requester = .sequencer) then some (.pulse1, 1) else none := by
  simp [fetch, hr, accepting_of_idle hs, hv, startByte_of_idle hs]

/-- Unarmed and not configuring, the sequencer stands without a pulse (R86, R92). -/
theorem sequencerNext_of_unpulsed {s : State} (hq : s.sq.state ≠ .configuring) (ha : s.sq.armed = false)
    (hg : s.inp.initGo = false) : sequencerNext s = s.sq := by
  cases hs : s.sq.state with
  | unconfigured => exact sequencerNext_of_unarmed hs ha hg
  | configuring => exact absurd hs hq
  | parked => exact sequencerNext_of_parked hs

/-- Settles O55: each statement drives its levels, so that nothing is on the port, and only a pulse to the sequencer
begins an instruction. -/
theorem programInitAndIdleTakeOneTick : Obligations.ProgramInitAndIdleTakeOneTick := by
  intro s rest hslot hu hw hs
  have hr := undisturbed_rst hu
  have hr' : (drive s).inp.rst = false := by rw [drive_rst, hr]
  have hs' : (drive s).tr.state = .idle := by rw [drive_tr, hs]
  have hu' : undisturbed (drive s) = true := by rw [drive_undisturbed, hu]
  refine ⟨fun hq hp hc => ?pulse, fun hq hp => ?nothing, fun hq hpc => ?idle⟩
  case pulse =>
    have hd := drive_of_init hr hw hq
    have hf := fetch_of_unrequested hr' hs'
      (portValid_of_not_configuring (by rw [drive_par, hp]) (by rwa [drive_sq]))
    have hf' : fetch (drive s) = some (.pulse1, 1) := by rw [hf]; simp [hd, hp]
    exact ⟨drive s, (step_of_fetch hslot hf').trans (runWord_of_decode decode_pulse _), by rw [hd], drive_sq s,
      drive_tr s, drive_sh s, drive_env s, hu'⟩
  case nothing =>
    have hd := drive_of_init hr hw hq
    have hv := portValid_of_low (s := drive s) (by rw [drive_par, hp]) (by rw [hd])
    have hf : fetch (drive s) = none := by rw [fetch_of_unrequested hr' hs' hv]; simp [hp]
    obtain ⟨htr, hsh, htrace⟩ := advance_of_unrequested hu' hs' hv
    rw [drive_tr] at htr; rw [drive_sh] at hsh; rw [drive_trace] at htrace
    exact ⟨advance (drive s), (step_of_no_fetch hslot hf).trans (tick_of_undisturbed hu'), by rw [advance_prog, hd],
      htr, hsh, (sequencerNext_of_host (by rw [drive_par, hp])).trans (drive_sq s), htrace⟩
  case idle =>
    have hd := drive_of_idle hr hw hq
    have hv : portValid (drive s) = false := by
      cases hp : s.par.requester with
      | host => exact portValid_of_low (by rw [drive_par, hp]) (by rw [hd, holdLow_inp])
      | sequencer =>
        exact portValid_of_not_configuring (by rw [drive_par, hp]) (by simpa [hp] using hpc)
    have hf : fetch (drive s) = none := by rw [fetch_of_unrequested hr' hs' hv]; simp [hd]
    obtain ⟨htr, hsh, htrace⟩ := advance_of_unrequested hu' hs' hv
    rw [drive_tr] at htr; rw [drive_sh] at hsh; rw [drive_trace] at htrace
    refine ⟨advance (drive s), (step_of_no_fetch hslot hf).trans (tick_of_undisturbed hu'), by rw [advance_prog, hd],
      htr, hsh, htrace, fun h => ?_⟩
    rw [advance_sq, ← drive_sq s]
    cases hp : s.par.requester with
    | host => exact sequencerNext_of_host (by rw [drive_par, hp])
    | sequencer =>
      exact sequencerNext_of_unpulsed (by simpa [hp] using hpc) (by simpa [hp] using h) (by rw [hd, holdLow_inp])

/-- Settles O56: a blocked program holds the port low and stands, and only `done = 1` ends the wait. -/
theorem programWaitsForItsDone : Obligations.ProgramWaitsForItsDone := by
  intro s hp haw
  have hb : blocked s = true := by simp [blocked, hp, haw]
  refine ⟨fun hu => ?undisturbed, fun hr => ?reset⟩
  case undisturbed =>
    have hd := drive_of_blocked hb (undisturbed_rst hu)
    have hu' : undisturbed (holdLow s) = true := hu
    have hclock : clock s = .next (advance (holdLow s)) := by rw [clock, hd, tick_of_undisturbed hu']
    refine ⟨_, hclock, rfl, by simp [awaitingNext, haw], fun hs => ?_⟩
    obtain ⟨htr, _, htrace⟩ := advance_of_unrequested hu' hs (portValid_of_low hp rfl)
    exact ⟨htr, htrace⟩
  case reset =>
    have hclock : clock s = .next (resetTick s) := by rw [clock, drive_of_rst hr, tick_of_rst hr]
    exact ⟨_, hclock, rfl, by simp [awaitingNext, haw], rfl, rfl⟩

end Sys2Proof.Machine
end

section
/-! Runs through a schedule: which inputs a run is at, what it keeps under the inputs it is given, and when it comes to
its end. -/

namespace Sys2Proof.Machine

/-! The schedule. -/

/-- The coming tick and those after it have the inputs `fuel`, as far as they are given. -/
def OnSchedule : List Inputs → State → Prop
  | [], s => s.env = []
  | i :: rest, s => s.inp = i ∧ s.env = rest

theorem onSchedule_self (s : State) : OnSchedule (s.inp :: s.env) s := ⟨rfl, rfl⟩

/-- A tick takes the next inputs off the schedule (R9). -/
theorem onSchedule_tick {s t : State} (h : tick s = .next t) : OnSchedule s.env t := by
  have ht : t.inp = nextInputs s ∧ t.env = s.env.tail := by
    rcases tick_next h with ⟨_, rfl⟩ | ⟨_, rfl⟩ <;> exact ⟨rfl, rfl⟩
  obtain ⟨hinp, henv⟩ := ht
  unfold nextInputs at hinp
  cases hl : s.env with
  | nil => rw [hl] at henv; exact henv
  | cons i rest => rw [hl] at hinp henv; exact ⟨hinp, henv⟩

theorem onSchedule_clock {s t : State} {i : Inputs} {rest : List Inputs} (hs : OnSchedule (i :: rest) s)
    (h : clock s = .next t) : OnSchedule rest t := by
  have := onSchedule_tick h
  rwa [drive_env, hs.2] at this

theorem now_clock {s t : State} (h : clock s = .next t) : t.now = s.now + 1 := by
  rcases tick_next h with ⟨_, rfl⟩ | ⟨_, rfl⟩ <;> simp

/-! One undisturbed tick with the program driving. -/

theorem clock_of_undisturbed {s : State} (h : undisturbed s = true) : clock s = .next (advance (drive s)) :=
  tick_of_undisturbed (by rw [drive_undisturbed, h])

theorem calm_iff (i : Inputs) : calm i = true ↔ i.rst = false ∧ i.pinsReady = true ∧ i.takeRdata = false := by
  simp [calm, and_assoc]

/-- Calm inputs disturb nothing but at a broken invariant or an undefined byte. -/
theorem undisturbed_of_calm {s : State} (hi : invariants s = true) (hp : peerUndefined s = false)
    (hc : calm s.inp = true) : undisturbed s = true := by
  obtain ⟨hr, hready, ht⟩ := (calm_iff _).mp hc
  simp [undisturbed, hr, hi, hready, ht, hp]

/-- Where the line is not sampled, nothing is undefined at the peer. -/
theorem peerUndefined_of_not_sampling {s : State} (h : sampling s = false) : peerUndefined s = false := by
  simp [peerUndefined, h]

theorem sampling_of_not_edge {s : State} (h : edgeFires s = false) : sampling s = false := by
  simp [sampling, h]

theorem edgeFires_of_stopped {s : State} (h : s.sh.run = false) : edgeFires s = false := by
  simp [edgeFires, h]

theorem invariants_drive (s : State) : invariants (drive s) = invariants s := by
  obtain ⟨v, g, r, p, w, h⟩ := drive_shape s; rw [h]; rfl

/-! What a run keeps, and where it ends. -/

/-- What every tick under the given inputs keeps until `stop`, the run keeps. -/
theorem runOn_keeps_under {P : State → Prop} {stop : State → Bool} {ok : Inputs → Bool}
    (hc : ∀ s t, P s → stop s = false → ok s.inp = true → clock s = .next t → P t) :
    ∀ (fuel : List Inputs) (s t : State), OnSchedule fuel s → fuel.all ok = true → P s →
      runOn stop fuel s = .next t → P t := by
  intro fuel
  induction fuel with
  | nil => intro s t _ _ hp h; simp only [runOn, Host.Outcome.next.injEq] at h; exact h ▸ hp
  | cons i rest ih =>
    intro s t hs hok hp h
    obtain ⟨hi, hrest⟩ : ok i = true ∧ rest.all ok = true := by simpa using hok
    simp only [runOn] at h
    split at h
    · simp only [Host.Outcome.next.injEq] at h; exact h ▸ hp
    · next hstop =>
      obtain ⟨u, hu, ht⟩ := andThen_eq_next h
      exact ih u t (onSchedule_clock hs hu) hrest
        (hc s u hp (Bool.eq_false_iff.mpr hstop) (hs.1 ▸ hi) hu) ht

/-- Under the inputs `ok` allows, `P` goes on from tick to tick until `stop`; every strobe takes one off `need`, and where
nothing is needed any more `stop` holds. -/
structure Progress (ok : Inputs → Bool) (stop : State → Bool) (P : State → Prop) (need : State → Nat) : Prop where
  goesOn : ∀ s, P s → stop s = false → ok s.inp = true → ∃ t, clock s = .next t ∧ P t ∧ need t ≤ need s ∧
    (s.inp.edgeTick = true → need t + 1 = need s)
  ended : ∀ s, P s → (need s = 0 ↔ stop s = true)

theorem strobes_cons (i : Inputs) (rest : List Inputs) :
    strobes (i :: rest) = strobes rest + if i.edgeTick then 1 else 0 := by
  simp [strobes, List.countP_cons]

/-- A run that makes progress answers a next state with `P`, and has come to its end if the strobes were enough. -/
theorem runOn_of_progress {ok : Inputs → Bool} {stop : State → Bool} {P : State → Prop} {need : State → Nat}
    (h : Progress ok stop P need) : ∀ (fuel : List Inputs) (s : State), OnSchedule fuel s → fuel.all ok = true → P s →
      ∃ t, runOn stop fuel s = .next t ∧ P t ∧ (need s ≤ strobes fuel → stop t = true) := by
  intro fuel
  induction fuel with
  | nil => intro s _ _ hp; exact ⟨s, rfl, hp, fun hn => (h.ended s hp).mp (by simpa [strobes] using hn)⟩
  | cons i rest ih =>
    intro s hs hok hp
    obtain ⟨hi, hrest⟩ : ok i = true ∧ rest.all ok = true := by simpa using hok
    cases hstop : stop s with
    | true => exact ⟨s, by simp [runOn, hstop], hp, fun _ => hstop⟩
    | false =>
      obtain ⟨u, hu, hpu, hle, hedge⟩ := h.goesOn s hp hstop (hs.1 ▸ hi)
      obtain ⟨t, ht, hpt, hend⟩ := ih u (onSchedule_clock hs hu) hrest hpu
      refine ⟨t, by simp [runOn, hstop, hu, ht], hpt, fun hn => hend ?_⟩
      rw [strobes_cons, ← hs.1] at hn
      cases he : s.inp.edgeTick with
      | true => have := hedge he; simp [he] at hn; omega
      | false => simp [he] at hn; omega

/-- With a strobe in every tick the run ends after exactly the ticks it needs. -/
theorem runOn_counts {ok : Inputs → Bool} {stop : State → Bool} {P : State → Prop} {need : State → Nat}
    (h : Progress ok stop P need) : ∀ (fuel : List Inputs) (s : State), OnSchedule fuel s →
      fuel.all (fun i => ok i && i.edgeTick) = true → P s → need s ≤ fuel.length →
      ∃ t, runOn stop fuel s = .next t ∧ P t ∧ stop t = true ∧ t.now = s.now + need s := by
  intro fuel
  induction fuel with
  | nil =>
    intro s _ _ hp hn
    have h0 : need s = 0 := by simpa using hn
    exact ⟨s, rfl, hp, (h.ended s hp).mp h0, by simp [h0]⟩
  | cons i rest ih =>
    intro s hs hok hp hn
    obtain ⟨⟨hi, he⟩, hrest⟩ : (ok i = true ∧ i.edgeTick = true) ∧ rest.all (fun i => ok i && i.edgeTick) = true := by
      simpa using hok
    cases hstop : stop s with
    | true => exact ⟨s, by simp [runOn, hstop], hp, hstop, by simp [(h.ended s hp).mpr hstop]⟩
    | false =>
      obtain ⟨u, hu, hpu, _, hedge⟩ := h.goesOn s hp hstop (hs.1 ▸ hi)
      have hone : need u + 1 = need s := hedge (hs.1 ▸ he)
      rw [List.length_cons] at hn
      obtain ⟨t, ht, hpt, hend, hnow⟩ := ih u (onSchedule_clock hs hu) hrest hpu (by omega)
      exact ⟨t, by simp [runOn, hstop, hu, ht], hpt, hend, by rw [hnow, now_clock hu]; omega⟩

/-! Runs by the number of ticks. -/

theorem runTicks_add (m n : Nat) (s : State) : runTicks (m + n) s = andThen (runTicks m s) (runTicks n) := by
  induction m generalizing s with
  | zero => simp [runTicks]
  | succ m ih =>
    rw [Nat.succ_add]
    simp only [runTicks]
    cases clock s with
    | next u => simp [ih]
    | fault r => rfl
    | refused r => rfl

/-- A run to its end is a run of as many ticks as the time that has passed. -/
theorem runTicks_of_runOn {stop : State → Bool} : ∀ (fuel : List Inputs) (s t : State), OnSchedule fuel s →
    runOn stop fuel s = .next t → ∃ n, t.now = s.now + n ∧ runTicks n s = .next t ∧ OnSchedule (fuel.drop n) t := by
  intro fuel
  induction fuel with
  | nil =>
    intro s t hs h
    obtain rfl : s = t := by simpa [runOn] using h
    exact ⟨0, rfl, rfl, hs⟩
  | cons i rest ih =>
    intro s t hs h
    simp only [runOn] at h
    split at h
    · obtain rfl : s = t := by simpa using h
      exact ⟨0, rfl, rfl, hs⟩
    · obtain ⟨u, hu, ht⟩ := andThen_eq_next h
      obtain ⟨n, hnow, hrun, hsched⟩ := ih u t (onSchedule_clock hs hu) ht
      exact ⟨n + 1, by rw [hnow, now_clock hu]; omega, by simp [runTicks, hu, hrun], hsched⟩

/-- What every tick under the given inputs brings one nearer, the run of that many ticks reaches. -/
theorem runTicks_reaches {P : Nat → State → Prop} {ok : Inputs → Bool}
    (hc : ∀ n s, P (n + 1) s → ok s.inp = true → ∃ t, clock s = .next t ∧ P n t) :
    ∀ (n m : Nat) (fuel : List Inputs) (s : State), OnSchedule fuel s → fuel.all ok = true → n ≤ fuel.length →
      P (m + n) s → ∃ t, runTicks n s = .next t ∧ P m t ∧ OnSchedule (fuel.drop n) t := by
  intro n
  induction n with
  | zero => intro m fuel s hs _ _ hp; exact ⟨s, rfl, hp, hs⟩
  | succ n ih =>
    intro m fuel s hs hok hn hp
    cases fuel with
    | nil => simp at hn
    | cons i rest =>
      obtain ⟨hi, hrest⟩ : ok i = true ∧ rest.all ok = true := by simpa using hok
      obtain ⟨u, hu, hpu⟩ := hc (m + n) s hp (hs.1 ▸ hi)
      obtain ⟨t, ht, hpt, hsched⟩ := ih m rest u (onSchedule_clock hs hu) hrest (by simpa using hn) hpu
      exact ⟨t, by simp [runTicks, hu, ht], hpt, hsched⟩

end Sys2Proof.Machine
end

section
/-! Runs in which little happens: an exchange without a strobe (R96), `GAP` (R76), and `PARKED` (R92). -/

namespace Sys2Proof.Machine

/-! Without a strobe (R96). -/

/-- The block `s` again, some ticks without a strobe later. -/
structure Stuck (s u : State) : Prop where
  inv : invariants u = true
  sh : u.sh = s.sh
  tr : u.tr = { s.tr with done := false }
  trace : u.trace = s.trace

/-- One tick without a strobe leaves a running exchange where it was. -/
theorem stuck_advance {s u : State} (hu : undisturbed u = true) (hr : u.sh.run = true) (he : u.inp.edgeTick = false)
    (hsh : u.sh = s.sh) (htr : { u.tr with done := false } = { s.tr with done := false }) (htrace : u.trace = s.trace) :
    Stuck s (advance u) := by
  have hc := undisturbed_consistent hu
  have ht : transportNext u = { u.tr with done := false } :=
    transportNext_of_waiting_xfer (hc.run hr) (ovf_eq_false_of_running hc hr)
  exact ⟨invariants_advance (undisturbed_invariants hu), by rw [advance_sh, shifterNext_of_running_pause hc hr he, hsh],
    by rw [advance_tr, ht, htr], by rw [advance_trace, tickEvents_of_running_pause hc hr he, htrace, List.append_nil]⟩

theorem stuck_clock {s u : State} (hr : s.sh.run = true) (h : Stuck s u)
    (hi : (calm u.inp && !u.inp.edgeTick) = true) : ∃ t, clock u = .next t ∧ Stuck s t := by
  obtain ⟨hcalm, he⟩ : calm u.inp = true ∧ u.inp.edgeTick = false := by simpa using hi
  have hu : undisturbed u = true := undisturbed_of_calm h.inv
    (peerUndefined_of_not_sampling (sampling_of_not_edge (by simp [edgeFires, he]))) hcalm
  refine ⟨_, clock_of_undisturbed hu, stuck_advance (by rw [drive_undisturbed, hu]) (by rw [drive_sh, h.sh, hr])
    (by rw [drive_edgeTick, he]) (by rw [drive_sh, h.sh]) (by rw [drive_tr, h.tr]) (by rw [drive_trace, h.trace])⟩

/-- Settles O16: the first tick clears `done`, and every further one leaves all as it was. -/
theorem noStrobeNoProgress : Obligations.NoStrobeNoProgress := by
  intro s n hu hr hall hpos hn
  obtain ⟨hi, henv⟩ : (calm s.inp && !s.inp.edgeTick) = true ∧ s.env.all (fun i => calm i && !i.edgeTick) = true := by
    rwa [List.all_cons, Bool.and_eq_true] at hall
  obtain ⟨m, rfl⟩ : ∃ m, n = 1 + m := ⟨n - 1, by omega⟩
  have hclock := clock_of_undisturbed hu
  have hfirst : Stuck s (advance (drive s)) := stuck_advance (by rw [drive_undisturbed, hu]) (by rw [drive_sh, hr])
    (by rw [drive_edgeTick]; simpa using (Bool.and_eq_true_iff.mp hi).2) (drive_sh s) (by rw [drive_tr])
    (drive_trace s)
  obtain ⟨t, ht, hstuck, _⟩ := runTicks_reaches (P := fun _ u => Stuck s u) (fun _ _ hp hok => stuck_clock hr hp hok)
    m 0 s.env _ (onSchedule_clock (onSchedule_self s) hclock) henv (by omega) hfirst
  have hx : s.tr.state = .xfer := (undisturbed_consistent hu).run hr
  have hsel : s.tr.csAsserted = true := by
    rw [((invariants_iff_consistent s).mp (undisturbed_invariants hu)).1, hx]; rfl
  refine ⟨t, by rw [runTicks_add]; simp [runTicks, hclock, ht], hstuck.sh, hstuck.tr, by rw [hstuck.tr, hx],
    by rw [hstuck.tr, hsel], by simp [busy, hstuck.tr, hx], hstuck.trace⟩

/-! `GAP` (R76). -/

/-- In `GAP` with `n` ticks to go after this one, or past it. -/
def InGap (s : State) (n : Nat) (u : State) : Prop :=
  invariants u = true ∧ u.trace = s.trace ∧ if n = 0 then u.tr.state = .idle else u.tr.state = .gap ∧ u.tr.wait + 1 = n

/-- One tick in `GAP`. -/
theorem inGap_advance {s u : State} {n : Nat} (h : InGap s (n + 1) u) (hu : undisturbed u = true) :
    InGap s n (advance u) := by
  obtain ⟨hinv, htrace, hg⟩ := h
  obtain ⟨hs, hw⟩ : u.tr.state = .gap ∧ u.tr.wait = n := by simpa using hg
  have hc := undisturbed_consistent hu
  have hev : tickEvents u = [] := tickEvents_of_quiet (by simp [accepting, hs]) (by simp [deasserting, hs])
    (run_eq_false_of_not_xfer hc (by simp [hs]))
  refine ⟨invariants_advance hinv, by rw [advance_trace, hev, htrace, List.append_nil], ?_⟩
  rcases Nat.eq_zero_or_pos n with h0 | h0
  · simp [transportNext_of_gap_over hs (hw.trans h0), h0]
  · simp [transportNext_of_waiting_gap hs (hw ▸ h0), hs, Nat.ne_of_gt h0]; omega

theorem inGap_drive {s u : State} {n : Nat} (h : InGap s n u) : InGap s n (drive u) := by
  simpa only [InGap, invariants_drive, drive_trace, drive_tr] using h

theorem inGap_clock {s u : State} {n : Nat} (h : InGap s (n + 1) u) (hcalm : calm u.inp = true) :
    ∃ t, clock u = .next t ∧ InGap s n t := by
  obtain ⟨hinv, _, hg⟩ := id h
  have hs : u.tr.state = .gap := by simp at hg; exact hg.1
  have hc := ((invariants_iff_consistent u).mp hinv).2.1
  have hu : undisturbed u = true := undisturbed_of_calm hinv (peerUndefined_of_not_sampling
    (sampling_of_not_edge (edgeFires_of_stopped (run_eq_false_of_not_xfer hc (by simp [hs]))))) hcalm
  exact ⟨_, clock_of_undisturbed hu, inGap_advance (inGap_drive h) (by rw [drive_undisturbed, hu])⟩

/-- `n` ticks from the beginning of a `GAP`. -/
theorem runTicks_of_gap {s : State} (hu : undisturbed s = true) (hs : s.tr.state = .gap) (henv : s.env.all calm = true)
    {n m : Nat} (hn : m + n = s.tr.wait + 1) (hlen : n ≤ s.env.length + 1) :
    ∃ t, runTicks n s = .next t ∧ InGap s m t := by
  have hgap : InGap s (s.tr.wait + 1) s := ⟨undisturbed_invariants hu, rfl, by simp [hs]⟩
  cases n with
  | zero => obtain rfl : m = s.tr.wait + 1 := by omega
            exact ⟨s, rfl, hgap⟩
  | succ n =>
    have hclock := clock_of_undisturbed hu
    have hfirst : InGap s s.tr.wait (advance (drive s)) :=
      inGap_advance (inGap_drive hgap) (by rw [drive_undisturbed, hu])
    obtain ⟨t, ht, hg, _⟩ := runTicks_reaches (P := InGap s) (fun _ _ hp hok => inGap_clock hp hok) n m s.env _
      (onSchedule_clock (onSchedule_self s) hclock) henv (by omega) (by rwa [show m + n = s.tr.wait by omega])
    exact ⟨t, by simp [runTicks, hclock, ht], hg⟩

/-- In `GAP` and in `IDLE` chip-select is deasserted (R32 item 1). -/
theorem inGap_csAsserted {s u : State} {n : Nat} (h : InGap s n u) : u.tr.csAsserted = false := by
  obtain ⟨hinv, _, hg⟩ := h
  rw [((invariants_iff_consistent u).mp hinv).1]
  rcases Nat.eq_zero_or_pos n with h0 | h0
  · simp [h0] at hg; simp [hg, selecting]
  · simp [Nat.ne_of_gt h0] at hg; simp [hg.1, selecting]

/-- Settles O23: the ticks to go in `GAP` count down to `IDLE`. -/
theorem gapSeparatesTheWindows : Obligations.GapSeparatesTheWindows := by
  intro s hu hs henv hlen
  refine ⟨fun n t hn ht => ?_, ?_⟩
  · obtain ⟨t', ht', hg⟩ := runTicks_of_gap hu hs henv (m := s.tr.wait + 1 - n) (n := n) (by omega) (by omega)
    obtain rfl : t = t' := by simpa [ht] using ht'
    have hgap : t.tr.state = .gap := by
      have := hg.2.2
      rw [if_neg (by omega)] at this
      exact this.1
    exact ⟨hgap, inGap_csAsserted hg, hg.2.1⟩
  · obtain ⟨t, ht, hg⟩ := runTicks_of_gap hu hs henv (m := 0) (n := s.tr.wait + 1) (by omega) (by omega)
    exact ⟨t, ht, by simpa using hg.2.2, inGap_csAsserted hg, hg.2.1⟩

/-! Runs without a reset, and `PARKED` (R92). -/

section
variable {P : State → Prop} (hi : IgnoresRequester P) (ha : ∀ s, P s → undisturbed s = true → P (advance s))
include hi ha

omit hi in
/-- What every undisturbed tick keeps, a tick without a reset keeps. -/
theorem tick_keeps_unreset {s t : State} (hr : s.inp.rst = false) (hp : P s) (h : tick s = .next t) : P t := by
  obtain ⟨hu, rfl⟩ := tick_next_of_unreset hr h
  exact ha s hp hu

theorem runOn_keeps_unreset {stop : State → Bool} {fuel : List Inputs} {s t : State} (hs : OnSchedule fuel s)
    (hr : fuel.all (fun i => !i.rst) = true) (hp : P s) (h : runOn stop fuel s = .next t) : P t :=
  runOn_keeps_under (ok := fun i => !i.rst)
    (fun s _ hp _ hok hc => tick_keeps_unreset ha (by rw [drive_rst]; simpa using hok) (drive_keeps hi hp) hc)
    fuel s t hs hr hp h

theorem transact_keeps_unreset {r : Request} {s t : State} (hr : s.inp.rst = false)
    (henv : s.env.all (fun i => !i.rst) = true) (hp : P s) (h : transact r s = .next t) : P t := by
  have hpres : P (present r s) := hi s _ s.prog s.awaiting s.slot hp
  rcases transact_next h with ⟨_, _, _, hu, hrun⟩ | ⟨_, htick⟩
  · exact runOn_keeps_unreset hi ha (onSchedule_tick (tick_of_undisturbed hu)) henv (ha _ hpres hu) hrun
  · exact tick_keeps_unreset ha (s := present r s) hr hpres htick

theorem exchange_keeps_unreset {place : Bool} {b : Byte} {s t : State} (hr : s.inp.rst = false)
    (henv : s.env.all (fun i => !i.rst) = true) (hp : P s) (h : exchange place b s = .next t) : P t := by
  rcases exchange_next h with ⟨hr', _⟩ | ⟨_, _, _, hu, hrun⟩
  · simp [hr] at hr'
  · exact runOn_keeps_unreset hi ha (onSchedule_tick (tick_of_undisturbed hu)) henv (ha _ hp hu) hrun

/-- What every undisturbed tick keeps, every instruction keeps where no reset comes. -/
theorem exec_keeps_unreset {i : Instr} {s t : State} (hr : s.inp.rst = false)
    (henv : s.env.all (fun i => !i.rst) = true) (hp : P s) (h : exec i s = .next t) : P t := by
  cases i with
  | writeReg a v => exact transact_keeps_unreset hi ha hr henv hp h
  | readReg a v => exact transact_keeps_unreset hi ha hr henv hp h
  | shift tx => exact exchange_keeps_unreset hi ha hr henv hp h
  | init =>
    exact tick_keeps_unreset ha (s := { s with inp := { s.inp with initGo := true } }) hr
      (hi s _ s.prog s.awaiting s.slot hp) h
  | cmdWrite a => exact exchange_keeps_unreset hi ha hr henv hp h
  | cmdRead a => exact exchange_keeps_unreset hi ha hr henv hp h
  | cmdWriteAi a => simp [exec, execCmdWriteAi] at h
  | cmdReadAi a => simp [exec, execCmdReadAi] at h
  | dummy => exact exchange_keeps_unreset hi ha hr henv hp h
  | writeFrame a v => exact transact_keeps_unreset hi ha hr henv hp h
  | readFrame a => exact transact_keeps_unreset hi ha hr henv hp h

/-- What every undisturbed tick keeps, every step keeps where no reset comes. -/
theorem step_keeps_unreset {s t : State} (hr : s.inp.rst = false) (henv : s.env.all (fun i => !i.rst) = true)
    (hp : P s) (h : step s = .next t) : P t := by
  have hr' : (drive s).inp.rst = false := by rw [drive_rst, hr]
  have henv' : (drive s).env.all (fun i => !i.rst) = true := by rw [drive_env, henv]
  rcases step_next h with ⟨i, hx⟩ | ⟨i, hx⟩ | hx
  · exact exec_keeps_unreset hi ha (s := { s with slot := none }) hr henv (hi s s.inp s.prog s.awaiting none hp) hx
  · exact exec_keeps_unreset hi ha hr' henv' (drive_keeps hi hp) hx
  · exact tick_keeps_unreset ha hr' (drive_keeps hi hp) hx

end

/-- Parked and idle, with the sequencer as the requester and `trace` on the bus so far. -/
structure ParkedIdle (trace : List BusEvent) (s : State) : Prop where
  requester : s.par.requester = .sequencer
  parked : s.sq.state = .parked
  idle : s.tr.state = .idle
  trace : s.trace = trace

/-- With nothing on the port, a parked and idle block stays so. -/
theorem parkedIdle_advance {trace : List BusEvent} {s : State} (h : ParkedIdle trace s) (hu : undisturbed s = true) :
    ParkedIdle trace (advance s) := by
  have hv : portValid s = false := portValid_of_not_configuring h.requester (by simp [h.parked])
  obtain ⟨htr, _, htrace⟩ := advance_of_unrequested hu h.idle hv
  exact ⟨h.requester, by rw [advance_sq, sequencerNext_of_parked h.parked, h.parked], by rw [htr]; exact h.idle,
    htrace.trans h.trace⟩

/-- Settles O42: a parked sequencer stands in every tick without a reset, and an idle block under it has no request. -/
theorem parkedIsTerminal : Obligations.ParkedIsTerminal := by
  intro s t hq hr henv h
  refine ⟨?_, fun hp hs => ?_⟩
  · exact step_keeps_unreset (P := fun u => u.sq = s.sq) (fun _ _ _ _ _ h => h)
      (fun u hu _ => by rw [advance_sq, sequencerNext_of_parked (by rw [hu, hq]), hu]) hr henv rfl h
  · have hpi := step_keeps_unreset (P := ParkedIdle s.trace) (fun _ _ _ _ _ ⟨h1, h2, h3, h4⟩ => ⟨h1, h2, h3, h4⟩)
      (fun _ => parkedIdle_advance) hr henv ⟨hp, hq, hs, rfl⟩ h
    exact ⟨hpi.trace, hpi.idle, by simp [sleepReq, hpi.requester, hpi.parked]⟩

end Sys2Proof.Machine
end

section
/-! Bits and bytes on the bus (R37, R59), and the reference peer as a listener to bits (R48). -/

namespace Sys2Proof.Machine

/-! A byte's bits, most-significant first. -/

/-- The bits of a byte in the order they are sent (R37). -/
def msbBits (b : Byte) : List Bool :=
  [b.getLsbD 7, b.getLsbD 6, b.getLsbD 5, b.getLsbD 4, b.getLsbD 3, b.getLsbD 2, b.getLsbD 1, b.getLsbD 0]

@[simp] theorem length_msbBits (b : Byte) : (msbBits b).length = 8 := rfl

/-- Bit `i` in the order they are sent is bit `7 - i` of the byte. -/
theorem getElem_msbBits (b : Byte) (i : Nat) (h : i < (msbBits b).length) : (msbBits b)[i] = b.getLsbD (7 - i) := by
  rw [length_msbBits] at h
  interval_cases i <;> rfl

theorem take_succ_msbBits (b : Byte) {n : Nat} (h : n < 8) :
    (msbBits b).take (n + 1) = (msbBits b).take n ++ [b.getLsbD (7 - n)] := by
  rw [List.take_succ_eq_append_getElem (by simpa using h), getElem_msbBits]

/-- A byte is its bits. -/
theorem bytesOf_msbBits_append (b : Byte) (l : List Bool) : bytesOf (msbBits b ++ l) = b :: bytesOf l := by
  have hb : BitVec.ofBool (b.getLsbD 7) ++ BitVec.ofBool (b.getLsbD 6) ++ BitVec.ofBool (b.getLsbD 5) ++
      BitVec.ofBool (b.getLsbD 4) ++ BitVec.ofBool (b.getLsbD 3) ++ BitVec.ofBool (b.getLsbD 2) ++
      BitVec.ofBool (b.getLsbD 1) ++ BitVec.ofBool (b.getLsbD 0) = b := by
    revert b; decide
  exact congrArg (· :: bytesOf l) hb

theorem bytesOf_msbBits (b : Byte) : bytesOf (msbBits b) = [b] := bytesOf_msbBits_append b []

theorem msbBits_injective {b c : Byte} (h : msbBits b = msbBits c) : b = c := by
  have := bytesOf_msbBits b
  rw [h, bytesOf_msbBits] at this
  exact (List.cons.inj this).1.symm

/-- Shifting in drops the bit sent first and takes the new one at the end (R7). -/
theorem msbBits_shiftIn (b : Byte) (x : Bool) : msbBits (shiftIn b x) = (msbBits b).drop 1 ++ [x] := by
  revert b x; decide

/-- Shifting in bit after bit. -/
theorem msbBits_foldl_shiftIn (b : Byte) (l : List Bool) :
    msbBits (l.foldl shiftIn b) = (msbBits b ++ l).drop l.length := by
  induction l generalizing b with
  | nil => simp
  | cons x rest ih =>
    rw [List.foldl_cons, ih, msbBits_shiftIn, List.append_assoc, List.length_cons, Nat.add_comm, ← List.drop_drop]
    rfl

/-- After eight bits the register is the byte they make, whatever it was. -/
theorem foldl_shiftIn_msbBits (b acc : Byte) : (msbBits b).foldl shiftIn acc = b := by
  apply msbBits_injective
  rw [msbBits_foldl_shiftIn]
  rfl

/-! Reading a trace in parts. -/

theorem sentBits_append (c : Bool) (l m : List BusEvent) : sentBits c (l ++ m) = sentBits c l ++ sentBits c m := by
  induction l with
  | nil => rfl
  | cons e rest ih =>
    cases e with
    | edge k _ _ => cases hk : samplingEdge c k <;> simp [sentBits, ih, hk]
    | csAssert => exact ih
    | csDeassert => exact ih
    | sampled _ _ => exact ih

theorem receivedBits_append (l m : List BusEvent) : receivedBits (l ++ m) = receivedBits l ++ receivedBits m := by
  induction l with
  | nil => rfl
  | cons e rest ih => cases e <;> simp [receivedBits, ih]

theorem unselecting_append (l m : List BusEvent) :
    unselecting (l ++ m) = (unselecting l && unselecting m) := List.all_append

/-- Whole bytes split off (R59). -/
theorem bytesOf_append {n : Nat} {l : List Bool} (h : l.length = 8 * n) (m : List Bool) :
    bytesOf (l ++ m) = bytesOf l ++ bytesOf m := by
  induction n generalizing l with
  | zero => obtain rfl := List.length_eq_zero_iff.mp h; rfl
  | succ n ih =>
    obtain ⟨b7, b6, b5, b4, b3, b2, b1, b0, rest, rfl⟩ :
        ∃ b7 b6 b5 b4 b3 b2 b1 b0 rest, l = b7 :: b6 :: b5 :: b4 :: b3 :: b2 :: b1 :: b0 :: rest := by
      match l, h with
      | b7 :: b6 :: b5 :: b4 :: b3 :: b2 :: b1 :: b0 :: rest, _ => exact ⟨_, _, _, _, _, _, _, _, _, rfl⟩
    simp only [List.length_cons] at h
    simp only [List.cons_append, bytesOf, ih (l := rest) (by omega)]

/-- What two stretches of the bus carry, they carry together. -/
theorem carried_append {c : Bool} {ev fv : List BusEvent} {out back out' back' : List Byte}
    (h : Carried c ev out back) (h' : Carried c fv out' back') :
    Carried c (ev ++ fv) (out ++ out') (back ++ back') := by
  obtain ⟨hu, hsl, hs, hrl, hr⟩ := h
  obtain ⟨hu', hsl', hs', hrl', hr'⟩ := h'
  refine ⟨by rw [unselecting_append, hu, hu']; rfl, ?_, ?_, ?_, ?_⟩
  · rw [sentBits_append, List.length_append, List.length_append, hsl, hsl']; omega
  · rw [sentBits_append, bytesOf_append hsl, hs, hs']
  · rw [receivedBits_append, List.length_append, List.length_append, hrl, hrl']; omega
  · rw [receivedBits_append, bytesOf_append hrl, hr, hr']

theorem carried_nil (c : Bool) : Carried c [] [] [] := ⟨rfl, rfl, rfl, rfl, rfl⟩

/-! The reference peer (R48). -/

/-- What becomes of the peer's state `p` while it hears `bits`: the reference peer takes them in, any other fixture has no
state of its own. -/
def listen (att : Attached) (p : RefPeer) (bits : List Bool) : RefPeer :=
  if att = .reference then bits.foldl peerBit p else p

theorem listen_nil (att : Attached) (p : RefPeer) : listen att p [] = p := by
  unfold listen; split <;> rfl

theorem listen_append (att : Attached) (p : RefPeer) (l m : List Bool) :
    listen att p (l ++ m) = listen att (listen att p l) m := by
  unfold listen; split
  · exact List.foldl_append
  · rfl

/-- The eighth bit of a byte completes it. -/
theorem peerBit_of_eighth {p : RefPeer} (h : p.bits = 7) (x : Bool) :
    peerBit p x = peerByte { p with acc := shiftIn p.acc x, bits := 0 } (shiftIn p.acc x) := by
  simp only [peerBit, h, if_true]

/-- Bits that do not complete a byte are only kept. -/
theorem foldl_peerBit_of_incomplete {p : RefPeer} {l : List Bool} (h : p.bits.toNat + l.length < 8) :
    l.foldl peerBit p = { p with acc := l.foldl shiftIn p.acc, bits := p.bits + BitVec.ofNat 3 l.length } := by
  induction l using List.reverseRecOn with
  | nil => simp
  | append_singleton l x ih =>
    rw [List.length_append, List.length_singleton] at h
    have h7 : p.bits + BitVec.ofNat 3 l.length ≠ 7#3 := fun h7 => by
      have := congrArg BitVec.toNat h7
      simp at this; omega
    rw [List.foldl_append, ih (by omega)]
    simp [peerBit, h7, BitVec.ofNat_add, BitVec.add_assoc]

/-- Fewer than eight bits from the beginning of a byte are only kept. -/
theorem foldl_peerBit_of_short {p : RefPeer} (hp : p.bits = 0) {l : List Bool} (h : l.length < 8) :
    l.foldl peerBit p = { p with acc := l.foldl shiftIn p.acc, bits := BitVec.ofNat 3 l.length } := by
  rw [foldl_peerBit_of_incomplete (by rw [hp]; simpa using h), hp]
  simp

/-- The byte heard by the peer, from a byte's beginning. -/
def peerHears (p : RefPeer) (b : Byte) : RefPeer := peerByte { p with acc := b, bits := 0 } b

/-- Eight bits from the beginning of a byte are the byte. -/
theorem foldl_peerBit_msbBits {p : RefPeer} (hp : p.bits = 0) (b : Byte) :
    (msbBits b).foldl peerBit p = peerHears p b := by
  have hsplit : msbBits b = (msbBits b).take 7 ++ [b.getLsbD 0] := rfl
  have hacc : shiftIn (((msbBits b).take 7).foldl shiftIn p.acc) (b.getLsbD 0) = b := by
    have := foldl_shiftIn_msbBits b p.acc
    rwa [hsplit, List.foldl_append] at this
  rw [hsplit, List.foldl_append, foldl_peerBit_of_short hp (by simp)]
  simp only [List.foldl_cons, List.foldl_nil, peerBit, hacc]
  rfl

/-- A byte reaches the peer's space as the third of a write only, at the address sent (R48). -/
theorem memory_read_peerByte {p : RefPeer} {k : Nat} (h : p.n = 2 ∧ p.dir = false → k ≠ p.a.toNat) (b : Byte) :
    Memory.read (peerByte p b).mem k = Memory.read p.mem k := by
  unfold peerByte
  split
  · rfl
  · split
    · next hw => exact memory_read_write_other _ _ _ _ (h (by simpa using hw))
    · rfl

theorem peerByte_bits (p : RefPeer) (b : Byte) : (peerByte p b).bits = p.bits := by
  unfold peerByte
  split_ifs <;> rfl

/-- Eight bits complete at most one byte, so they reach the peer's space as that byte does. -/
theorem memory_read_foldl_peerBit {p : RefPeer} {k : Nat} (h : p.n = 2 ∧ p.dir = false → k ≠ p.a.toNat)
    {l : List Bool} (hl : l.length ≤ 8) : Memory.read (l.foldl peerBit p).mem k = Memory.read p.mem k := by
  by_cases hshort : p.bits.toNat + l.length < 8
  · rw [foldl_peerBit_of_incomplete hshort]
  · have hb := p.bits.isLt
    obtain ⟨l1, x, l2, rfl, hl1⟩ : ∃ l1 x l2, l = l1 ++ x :: l2 ∧ p.bits.toNat + l1.length = 7 := by
      have hlt : 7 - p.bits.toNat < l.length := by omega
      exact ⟨l.take (7 - p.bits.toNat), l[7 - p.bits.toNat], l.drop (7 - p.bits.toNat + 1),
        by rw [List.getElem_cons_drop, List.take_append_drop], by rw [List.length_take]; omega⟩
    rw [List.length_append, List.length_cons] at hl
    have h7 : p.bits + BitVec.ofNat 3 l1.length = 7#3 := by
      apply BitVec.eq_of_toNat_eq
      simp; omega
    rw [List.foldl_append, List.foldl_cons, foldl_peerBit_of_incomplete (l := l1) (by omega), peerBit_of_eighth h7,
      foldl_peerBit_of_short (by rw [peerByte_bits]) (by omega)]
    exact memory_read_peerByte (p := { p with acc := shiftIn (l1.foldl shiftIn p.acc) x, bits := 0 }) h _

/-- A byte from beginning to end is one the peer gives a meaning: not the fourth, and no command with bit 6 (R48). -/
def Defined (att : Attached) (p : RefPeer) (b : Byte) : Prop :=
  att = .reference → p.bits = 0 ∧ p.n < 3 ∧ if p.n = 0 then b.getLsbD 6 = false else p.ai = false

theorem peerListens_iff (b : Byte) (s : State) : peerListens b s = true ↔ Defined s.attached s.peer b := by
  unfold peerListens Defined
  by_cases ha : s.attached = .reference
  · by_cases hn : s.peer.n = 0 <;> simp [ha, hn, and_assoc]
  · simp [ha]

/-- At the eighth bit of a byte it gives a meaning, nothing is undefined at the peer. -/
theorem peerUndefined_of_defined {s : State} {p : RefPeer} {b : Byte} {l : List Bool} (hd : Defined s.attached p b)
    (hpeer : s.peer = listen s.attached p l) (hl : l = (msbBits b).take l.length) (hlen : l.length < 8)
    (hx : s.sh.sdo = b.getLsbD (7 - l.length)) : peerUndefined s = false := by
  by_cases ha : s.attached = .reference
  · obtain ⟨hbits, hn, hcmd⟩ := hd ha
    have hp : s.peer = { p with acc := l.foldl shiftIn p.acc, bits := BitVec.ofNat 3 l.length } := by
      rw [hpeer, listen, if_pos ha, foldl_peerBit_of_short hbits hlen]
    by_cases h7 : l.length = 7
    · have hacc : shiftIn s.peer.acc s.sh.sdo = b := by
        rw [hx, hp, h7]
        have := foldl_shiftIn_msbBits b p.acc
        rw [show msbBits b = (msbBits b).take 7 ++ [b.getLsbD 0] from rfl, List.foldl_append, ← h7, ← hl] at this
        exact this
      have hn' : s.peer.n = p.n := by rw [hp]
      have hai : s.peer.ai = p.ai := by rw [hp]
      by_cases h0 : p.n = 0
      · simp [peerUndefined, hacc, hn', h0] at hcmd ⊢; simp [hcmd]
      · rw [if_neg h0] at hcmd
        simp [peerUndefined, hn', h0, hai, hcmd]; omega
    · have hb : s.peer.bits ≠ 7#3 := fun hb => by
        rw [hp] at hb
        have := congrArg BitVec.toNat hb
        simp at this; omega
      simp [peerUndefined, hb]
  · exact peerUndefined_of_unattached ha

end Sys2Proof.Machine
end

section
/-! One exchange (R61 to R65), edge by edge: what the shifter holds after `k` edges, and what was sent and received. -/

namespace Sys2Proof.Machine

/-! The shifter after `k` edges. -/

/-- The counter and the flags of an exchange after `k` edges (R63). -/
structure Counted (k : Nat) (h : Shifter) : Prop where
  le : k ≤ 16
  cnt : h.cnt = BitVec.ofNat 4 k
  run : h.run = decide (k < 16)
  ovf : h.ovf = decide (k = 16)

/-- How many bits have been sampled after `k` edges: with `P_CPHA = 0` on the edges 0, 2, …, with 1 on 1, 3, … (R64). -/
def sampled (cpha : Bool) (k : Nat) : Nat := if cpha then k / 2 else (k + 1) / 2

/-- The register and the lines of an exchange of `tx` after `k` edges, of which the second of each pulse has moved the
register by one (R64, R65): the bits sent are the first of `tx`; the register holds the rest of `tx` and then the bits
received; with `P_CPHA = 0` the last bit sampled may still be kept aside; `sdo` shows the bit the phase has it show. -/
structure Shifted (cpha : Bool) (tx : Byte) (k : Nat) (h : Shifter) (sent recv : List Bool) : Prop where
  sent_eq : sent = (msbBits tx).take (sampled cpha k)
  recv_length : recv.length = sampled cpha k
  reg : msbBits h.sr = (msbBits tx).drop (k / 2) ++ recv.take (k / 2)
  aside : cpha = false → k % 2 = 1 → recv = recv.take (k / 2) ++ [h.rxbit]
  first : cpha = false → h.sdo = tx.getLsbD (7 - k / 2)
  second : cpha = true → 0 < k → h.sdo = tx.getLsbD (7 - (k - 1) / 2)

theorem counted_shStart (p : Params) (h : Shifter) (b : Byte) : Counted 0 (shStart p h b) :=
  ⟨by simp, rfl, rfl, rfl⟩

theorem shifted_shStart (p : Params) (h : Shifter) (b : Byte) : Shifted p.cpha b 0 (shStart p h b) [] [] where
  sent_eq := by simp [sampled]
  recv_length := by simp [sampled]
  reg := by simp
  aside := by simp
  first hp := by simp [hp]
  second := by simp

/-- The 16th edge is the one at count 15. -/
theorem Counted.cnt_eq_15 {k : Nat} {h : Shifter} (hc : Counted k h) (hk : k < 16) : h.cnt = 15 ↔ k = 15 := by
  rw [hc.cnt]
  interval_cases k <;> decide

/-- The parity of the counter is the parity of the edges (R63). -/
theorem Counted.parity {k : Nat} {h : Shifter} (hc : Counted k h) : h.cnt.getLsbD 0 = decide (k % 2 = 1) := by
  have hle := hc.le
  rw [hc.cnt]
  interval_cases k <;> rfl

theorem counted_shEdge {k : Nat} {h : Shifter} (hc : Counted k h) (hk : k < 16) (p : Params) (x : Bool) :
    Counted (k + 1) (shEdge p h x) := by
  have h15 := hc.cnt_eq_15 hk
  refine ⟨hk, ?_, ?_, ?_⟩
  · simp [shEdge, hc.cnt, BitVec.ofNat_add]
  · simp only [shEdge, countEdge_run, shiftEdge_cnt, ne_eq, h15]
    exact decide_eq_decide.mpr (by omega)
  · simp only [shEdge, countEdge_ovf, shiftEdge_cnt, shiftEdge_ovf, h15, hc.ovf, Nat.ne_of_lt hk, decide_false,
      Bool.or_false]
    exact decide_eq_decide.mpr (by omega)

/-- Bit 7 of the register is the next bit to be shown. -/
theorem Shifted.head {c : Bool} {tx : Byte} {k : Nat} {h : Shifter} {sent recv : List Bool}
    (hs : Shifted c tx k h sent recv) (hk : k < 16) : h.sr.getLsbD 7 = tx.getLsbD (7 - k / 2) := by
  have h7 : (msbBits h.sr)[0]? = some (h.sr.getLsbD 7) := rfl
  have hlt : k / 2 < (msbBits tx).length := by simp; omega
  rw [hs.reg, List.getElem?_append_left (by simp; omega), List.getElem?_drop, Nat.add_zero,
    List.getElem?_eq_getElem hlt, getElem_msbBits] at h7
  exact (Option.some.inj h7).symm

/-- Bit 6 of the register is the one after it. -/
theorem Shifted.second_bit {c : Bool} {tx : Byte} {k : Nat} {h : Shifter} {sent recv : List Bool}
    (hs : Shifted c tx k h sent recv) (hk : k < 14) : h.sr.getLsbD 6 = tx.getLsbD (7 - (k / 2 + 1)) := by
  have h6 : (msbBits h.sr)[1]? = some (h.sr.getLsbD 6) := rfl
  have hlt : k / 2 + 1 < (msbBits tx).length := by simp; omega
  rw [hs.reg, List.getElem?_append_left (by simp; omega), List.getElem?_drop, List.getElem?_eq_getElem hlt,
    getElem_msbBits] at h6
  exact (Option.some.inj h6).symm

/-- Shifting `x` in moves the register from the bits received before to those and `x`. -/
theorem reg_shiftIn {tx b : Byte} {m : Nat} {r : List Bool} (hm : m < 8)
    (h : msbBits b = (msbBits tx).drop m ++ r) (x : Bool) :
    msbBits (shiftIn b x) = (msbBits tx).drop (m + 1) ++ (r ++ [x]) := by
  rw [msbBits_shiftIn, h, List.drop_append_of_le_length (by simp; omega), List.drop_drop, List.append_assoc]

/-! The four kinds of edges. -/

section
variable {p : Params} {tx : Byte} {h : Shifter} {sent recv : List Bool} {m : Nat}

/-- `P_CPHA = 0`, the first edge of pulse `m` samples. -/
theorem shifted_first_samples (hp : p.cpha = false) (hm : m < 8) (hc : Counted (2 * m) h)
    (hs : Shifted false tx (2 * m) h sent recv) (x : Bool) :
    Shifted false tx (2 * m + 1) (shEdge p h x) (sent ++ [(shEdge p h x).sdo]) (recv ++ [x]) := by
  obtain ⟨hx, hsr, hsdo⟩ := shEdge_of_sampling_first hp (by rw [hc.parity]; simp) x
  have hq : 2 * m / 2 = m := by omega
  have hq1 : (2 * m + 1) / 2 = m := by omega
  have hsm : sampled false (2 * m) = m := by simp [sampled]; omega
  have hsm1 : sampled false (2 * m + 1) = m + 1 := by simp [sampled]; omega
  have hlen : recv.length = m := hs.recv_length.trans hsm
  have hline := hs.first rfl
  rw [hq] at hline
  refine ⟨?_, by rw [List.length_append, hs.recv_length, hsm, hsm1]; rfl, ?_, fun _ _ => ?_, fun _ => ?_, by simp⟩
  · rw [hs.sent_eq, hsm, hsm1, hsdo, hline, take_succ_msbBits tx hm]
  · rw [hsr, hs.reg, hq, hq1, List.take_append_of_le_length (by omega)]
  · rw [hq1, hx, List.take_append_of_le_length (by omega), List.take_of_length_le (by omega)]
  · rw [hsdo, hline, hq1]

/-- `P_CPHA = 0`, the second edge of pulse `m` shifts the bit in that was kept aside. -/
theorem shifted_second_shifts (hp : p.cpha = false) (hm : m < 8) (hc : Counted (2 * m + 1) h)
    (hs : Shifted false tx (2 * m + 1) h sent recv) (x : Bool) :
    Shifted false tx (2 * m + 1 + 1) (shEdge p h x) sent recv := by
  obtain ⟨_, hsr, hsdo⟩ := shEdge_of_shifting_second hp (by rw [hc.parity]; simp) x
  have hq : (2 * m + 1) / 2 = m := by omega
  have hq1 : (2 * m + 1 + 1) / 2 = m + 1 := by omega
  have hsm : sampled false (2 * m + 1) = m + 1 := by simp [sampled]; omega
  have hsm1 : sampled false (2 * m + 1 + 1) = m + 1 := by simp [sampled]; omega
  have hlen : recv.length = m + 1 := hs.recv_length.trans hsm
  have haside := hs.aside rfl (by omega)
  have hreg := hs.reg
  rw [hq] at haside hreg
  refine ⟨by rw [hs.sent_eq, hsm, hsm1], by rw [hs.recv_length, hsm, hsm1], ?_, fun _ hodd => by omega, fun _ => ?_, by simp⟩
  · rw [hsr, reg_shiftIn hm hreg, ← haside, hq1, List.take_of_length_le (by omega)]
  · rw [hsdo, hq1]
    by_cases h15 : m = 7
    · rw [if_pos ((hc.cnt_eq_15 (by omega)).mpr (by omega)), hs.first rfl, hq, h15]
    · rw [if_neg (mt (hc.cnt_eq_15 (by omega)).mp (by omega)), hs.second_bit (by omega), hq]

/-- `P_CPHA = 1`, the first edge of pulse `m` shows the next bit. -/
theorem shifted_first_shows (hp : p.cpha = true) (hm : m < 8) (hc : Counted (2 * m) h)
    (hs : Shifted true tx (2 * m) h sent recv) (x : Bool) :
    Shifted true tx (2 * m + 1) (shEdge p h x) sent recv := by
  obtain ⟨_, hsr, hsdo⟩ := shEdge_of_shifting_first hp (by rw [hc.parity]; simp) x
  have hq : 2 * m / 2 = m := by omega
  have hq1 : (2 * m + 1) / 2 = m := by omega
  have hsm : sampled true (2 * m) = m := by simp [sampled]
  have hsm1 : sampled true (2 * m + 1) = m := by simp [sampled]; omega
  refine ⟨by rw [hs.sent_eq, hsm, hsm1], by rw [hs.recv_length, hsm, hsm1], by rw [hsr, hs.reg, hq, hq1], by simp, by simp,
    fun _ _ => ?_⟩
  rw [hsdo, hs.head (by omega), Nat.add_sub_cancel]

/-- `P_CPHA = 1`, the second edge of pulse `m` samples and shifts in. -/
theorem shifted_second_samples (hp : p.cpha = true) (hm : m < 8) (hc : Counted (2 * m + 1) h)
    (hs : Shifted true tx (2 * m + 1) h sent recv) (x : Bool) :
    Shifted true tx (2 * m + 1 + 1) (shEdge p h x) (sent ++ [(shEdge p h x).sdo]) (recv ++ [x]) := by
  obtain ⟨_, hsr, hsdo⟩ := shEdge_of_sampling_second hp (by rw [hc.parity]; simp) x
  have hq : (2 * m + 1) / 2 = m := by omega
  have hq1 : (2 * m + 1 + 1) / 2 = m + 1 := by omega
  have hsm : sampled true (2 * m + 1) = m := by simp [sampled]; omega
  have hsm1 : sampled true (2 * m + 1 + 1) = m + 1 := by simp [sampled]; omega
  have hlen : recv.length = m := hs.recv_length.trans hsm
  have hline := hs.second rfl (by omega)
  rw [Nat.add_sub_cancel, Nat.mul_div_cancel_left m (by omega)] at hline
  have hreg := hs.reg
  rw [hq, List.take_of_length_le (by omega)] at hreg
  refine ⟨?_, by rw [List.length_append, hs.recv_length, hsm, hsm1]; rfl, ?_, by simp, by simp, fun _ _ => ?_⟩
  · rw [hs.sent_eq, hsm, hsm1, hsdo, hline, take_succ_msbBits tx hm]
  · rw [hsr, reg_shiftIn hm hreg, hq1, List.take_of_length_le (by rw [List.length_append, hlen]; rfl)]
  · rw [hsdo, hline, Nat.add_sub_cancel, hq]

end

/-- Every edge: what the exchange has sent and received grows by the line's levels where the edge samples, and the register
goes on (R64, R65). -/
theorem shifted_shEdge {p : Params} {tx : Byte} {k : Nat} {h : Shifter} {sent recv : List Bool} (hk : k < 16)
    (hc : Counted k h) (hs : Shifted p.cpha tx k h sent recv) (x : Bool) :
    Shifted p.cpha tx (k + 1) (shEdge p h x)
      (sent ++ if samplingEdge p.cpha h.cnt then [(shEdge p h x).sdo] else [])
      (recv ++ if samplingEdge p.cpha h.cnt then [x] else []) := by
  have hpar := hc.parity
  obtain ⟨m, rfl | rfl⟩ : ∃ m, k = 2 * m ∨ k = 2 * m + 1 := ⟨k / 2, by omega⟩
  · have h0 : h.cnt.getLsbD 0 = false := by rw [hpar]; simp
    cases hp : p.cpha with
    | false =>
      rw [if_pos (by rw [samplingEdge, h0]; rfl), if_pos (by rw [samplingEdge, h0]; rfl)]
      exact shifted_first_samples hp (by omega) hc (hp ▸ hs) x
    | true =>
      rw [if_neg (by rw [samplingEdge, h0]; simp), if_neg (by rw [samplingEdge, h0]; simp), List.append_nil,
        List.append_nil]
      exact shifted_first_shows hp (by omega) hc (hp ▸ hs) x
  · have h1 : h.cnt.getLsbD 0 = true := by rw [hpar]; simp
    cases hp : p.cpha with
    | false =>
      rw [if_neg (by rw [samplingEdge, h1]; simp), if_neg (by rw [samplingEdge, h1]; simp), List.append_nil,
        List.append_nil]
      exact shifted_second_shifts hp (by omega) hc (hp ▸ hs) x
    | true =>
      rw [if_pos (by rw [samplingEdge, h1]; rfl), if_pos (by rw [samplingEdge, h1]; rfl)]
      exact shifted_second_samples hp (by omega) hc (hp ▸ hs) x

/-- After the 16th edge all of `tx` was sent, and the register holds the bits received. -/
theorem Shifted.complete {c : Bool} {tx : Byte} {h : Shifter} {sent recv : List Bool}
    (hs : Shifted c tx 16 h sent recv) : sent = msbBits tx ∧ recv = msbBits h.sr ∧ h.sdo = tx.getLsbD 0 := by
  have hsm : sampled c 16 = 8 := by cases c <;> rfl
  refine ⟨by rw [hs.sent_eq, hsm]; rfl, ?_, ?_⟩
  · rw [hs.reg, List.take_of_length_le (by rw [hs.recv_length, hsm])]; rfl
  · cases c with
    | false => exact hs.first rfl
    | true => exact hs.second rfl (by omega)

end Sys2Proof.Machine
end

section
/-! An exchange on the bus: from the start of a byte to its end, tick by tick, with the trace and the peer beside it. -/

namespace Sys2Proof.Machine

/-! The bits of one edge. -/

theorem sentBits_edgeEvents (s : State) : sentBits s.par.cpha (edgeEvents s) =
    if samplingEdge s.par.cpha s.sh.cnt then [(shEdge s.par s.sh (sample s)).sdo] else [] := by
  cases hk : samplingEdge s.par.cpha s.sh.cnt with
  | true => simp [edgeEvents_of_sampling hk, sentBits, hk]
  | false => simp [edgeEvents_of_shifting hk, sentBits, hk]

theorem receivedBits_edgeEvents (s : State) : receivedBits (edgeEvents s) =
    if samplingEdge s.par.cpha s.sh.cnt then [sample s] else [] := by
  cases hk : samplingEdge s.par.cpha s.sh.cnt with
  | true => simp [edgeEvents_of_sampling hk, receivedBits]
  | false => simp [edgeEvents_of_shifting hk, receivedBits]

theorem unselecting_edgeEvents (s : State) : unselecting (edgeEvents s) = true := by
  unfold edgeEvents
  split <;> rfl

/-- The line stands on the edge that samples it (R64). -/
theorem shEdge_sdo_of_sampling {p : Params} {h : Shifter} (hk : samplingEdge p.cpha h.cnt = true) (x : Bool) :
    (shEdge p h x).sdo = h.sdo :=
  shiftEdge_sdo_of_sampling p.cpha h x hk

/-- In a running exchange the peer hears the bit of an edge that samples, and nothing else. -/
theorem peerNext_of_running_edge {s : State} (hc : s.sh.Consistent s.par s.tr.state) (hr : s.sh.run = true)
    (he : s.inp.edgeTick = true) :
    peerNext s = listen s.attached s.peer (sentBits s.par.cpha (edgeEvents s)) := by
  have ha : accepting s = false := accepting_of_busy (by simp [hc.run hr])
  have hf : edgeFires s = true := by simp [edgeFires, he, hr]
  rw [sentBits_edgeEvents]
  cases hk : samplingEdge s.par.cpha s.sh.cnt with
  | true =>
    rw [if_pos rfl, shEdge_sdo_of_sampling hk]
    cases hat : s.attached <;> simp [peerNext, listen, hat, ha, sampling, hf, hk]
  | false =>
    rw [if_neg (by simp), listen_nil]
    exact peerNext_of_quiet ha (by simp [sampling, hk])

/-! An exchange after `k` edges. -/

/-- The exchange of `tx` after `k` edges in `s`, with the events `ev` on the bus since the trace was `base` and the peer was
in the state `p`. What was received is known of the two fixtures that answer: the loopback returns what was sent (R69), and
the reference peer drives the register addressed by a read (R48). -/
structure Exchanging (tx : Byte) (base : List BusEvent) (p : RefPeer) (k : Nat) (ev : List BusEvent) (s : State) :
    Prop where
  trace : s.trace = base ++ ev
  unsel : unselecting ev = true
  counted : Counted k s.sh
  shifted : Shifted s.par.cpha tx k s.sh (sentBits s.par.cpha ev) (receivedBits ev)
  peer : s.peer = listen s.attached p (sentBits s.par.cpha ev)
  looped : s.attached = .loopback → receivedBits ev = sentBits s.par.cpha ev
  driven : s.attached = .reference → p.bits = 0 → p.n = 2 → p.dir = true →
    receivedBits ev = (msbBits (Memory.read p.mem p.a.toNat)).take (receivedBits ev).length

/-- The tick that starts a byte begins its exchange (R62). -/
theorem exchanging_start {s : State} {b : Byte} (hu : undisturbed s = true) (hb : startByte s = some b) :
    Exchanging b s.trace s.peer 0 [] (advance s) := by
  have hc := undisturbed_consistent hu
  have hbusy : s.tr.state ≠ .idle := fun h => by simp [startByte_of_idle h] at hb
  have hpeer : peerNext s = s.peer := peerNext_of_quiet (accepting_of_busy hbusy)
    (sampling_of_not_edge (edgeFires_of_stopped (run_eq_false_of_start hc hb)))
  have hsh : (advance s).sh = shStart s.par s.sh b := shifterNext_of_start hb
  exact ⟨by rw [advance_trace, tickEvents_of_start hc hb], rfl, hsh ▸ counted_shStart _ _ _,
    hsh ▸ shifted_shStart _ _ _, hpeer.trans (listen_nil _ _).symm, fun _ => rfl, fun _ _ _ _ => rfl⟩

section
variable {tx : Byte} {base : List BusEvent} {p : RefPeer} {k : Nat} {ev : List BusEvent} {s : State}

theorem exchanging_drive (h : Exchanging tx base p k ev s) : Exchanging tx base p k ev (drive s) := by
  obtain ⟨htrace, hun, hcount, hshift, hpeer, hloop, hdriven⟩ := h
  refine ⟨by rwa [drive_trace], hun, by rwa [drive_sh], by rwa [drive_par, drive_sh], ?_, ?_, ?_⟩
  · rwa [drive_peer, drive_attached, drive_par]
  · rwa [drive_attached, drive_par]
  · rwa [drive_attached]

/-- After `k < 16` edges the exchange runs. -/
theorem Exchanging.run_iff (h : Exchanging tx base p k ev s) : s.sh.run = true ↔ k < 16 := by
  rw [h.counted.run, decide_eq_true_eq]

/-- A tick without a strobe leaves the exchange as it is. -/
theorem exchanging_pause (h : Exchanging tx base p k ev s) (hc : s.sh.Consistent s.par s.tr.state)
    (hr : s.sh.run = true) (he : s.inp.edgeTick = false) : Exchanging tx base p k ev (advance s) := by
  have hsh : (advance s).sh = s.sh := shifterNext_of_running_pause hc hr he
  have hpeer : peerNext s = s.peer := peerNext_of_quiet (accepting_of_busy (by simp [hc.run hr]))
    (sampling_of_not_edge (by simp [edgeFires, he]))
  exact ⟨by rw [advance_trace, tickEvents_of_running_pause hc hr he, List.append_nil, h.trace], h.unsel,
    hsh ▸ h.counted, hsh ▸ h.shifted, hpeer.trans h.peer, h.looped, h.driven⟩

/-- Where an edge samples, fewer than eight bits were sampled before it. -/
theorem Exchanging.received_lt (h : Exchanging tx base p k ev s) (hk : k < 16)
    (hs : samplingEdge s.par.cpha s.sh.cnt = true) : (receivedBits ev).length < 8 := by
  have hpar := h.counted.parity
  rw [samplingEdge_iff, hpar] at hs
  rw [h.shifted.recv_length, ← hs, sampled]
  by_cases hodd : k % 2 = 1 <;> simp [hodd] <;> omega

/-- As many bits were sent as received. -/
theorem Exchanging.sent_length (h : Exchanging tx base p k ev s) :
    (sentBits s.par.cpha ev).length = (receivedBits ev).length := by
  have hle : sampled s.par.cpha k ≤ 8 := by
    have := h.counted.le
    unfold sampled; split <;> omega
  rw [h.shifted.recv_length, h.shifted.sent_eq, List.length_take, length_msbBits, Nat.min_eq_left hle]

/-- With the reference peer addressed by a read, the bit sampled is the next of the register (R48). -/
theorem Exchanging.sample_driven (h : Exchanging tx base p k ev s) (ha : s.attached = .reference) (hbits : p.bits = 0)
    (hn : p.n = 2) (hd : p.dir = true) (hlt : (receivedBits ev).length < 8) :
    sample s = (Memory.read p.mem p.a.toNat).getLsbD (7 - (receivedBits ev).length) := by
  have hpeer := h.peer
  rw [listen, if_pos ha, foldl_peerBit_of_short hbits (by rw [h.sent_length]; exact hlt), h.sent_length] at hpeer
  simp [sample, ha, hpeer, peerOut, hn, hd, Nat.mod_eq_of_lt hlt]

/-- A clock edge takes the exchange on by one. -/
theorem exchanging_edge (h : Exchanging tx base p k ev s) (hc : s.sh.Consistent s.par s.tr.state)
    (hr : s.sh.run = true) (he : s.inp.edgeTick = true) :
    Exchanging tx base p (k + 1) (ev ++ edgeEvents s) (advance s) := by
  have hk : k < 16 := h.run_iff.mp hr
  have hsh : (advance s).sh = shEdge s.par s.sh (sample s) := shifterNext_of_running_edge hc hr he
  refine ⟨?trace, by rw [unselecting_append, h.unsel, unselecting_edgeEvents]; rfl, hsh ▸ counted_shEdge h.counted hk _ _,
    ?shifted, ?peer, ?looped, ?driven⟩
  case trace => rw [advance_trace, tickEvents_of_running_edge hc hr he, h.trace, List.append_assoc]
  case shifted =>
    rw [hsh, advance_par, sentBits_append, receivedBits_append, sentBits_edgeEvents, receivedBits_edgeEvents]
    exact shifted_shEdge hk h.counted h.shifted _
  case peer =>
    rw [advance_peer, advance_par, advance_attached, peerNext_of_running_edge hc hr he, sentBits_append,
      listen_append, ← h.peer]
  case looped =>
    intro ha
    rw [advance_par, sentBits_append, receivedBits_append, h.looped ha, sentBits_edgeEvents, receivedBits_edgeEvents]
    cases hs : samplingEdge s.par.cpha s.sh.cnt with
    | true =>
      have hx : sample s = s.sh.sdo := by simp [sample, show s.attached = .loopback from ha]
      rw [shEdge_sdo_of_sampling hs, hx]
    | false => rfl
  case driven =>
    intro ha hbits hn hd
    rw [receivedBits_append, receivedBits_edgeEvents]
    cases hs : samplingEdge s.par.cpha s.sh.cnt with
    | true =>
      have hlt := h.received_lt hk hs
      rw [if_pos rfl, h.sample_driven ha hbits hn hd hlt, List.length_append, List.length_singleton,
        take_succ_msbBits _ hlt, ← h.driven ha hbits hn hd]
    | false =>
      rw [if_neg (by simp), List.append_nil]
      exact h.driven ha hbits hn hd

/-- Any tick of a running exchange takes it on by an edge or not at all. -/
theorem exchanging_advance (h : Exchanging tx base p k ev s) (hc : s.sh.Consistent s.par s.tr.state)
    (hr : s.sh.run = true) :
    ∃ ev', Exchanging tx base p (if s.inp.edgeTick then k + 1 else k) ev' (advance s) := by
  cases he : s.inp.edgeTick with
  | true => exact ⟨_, exchanging_edge h hc hr he⟩
  | false => exact ⟨_, exchanging_pause h hc hr he⟩

/-- Where the peer gives the byte a meaning, no tick of its exchange is undefined at it. -/
theorem peerUndefined_of_exchanging (h : Exchanging tx base p k ev s) (hd : Defined s.attached p tx) :
    peerUndefined s = false := by
  cases hs : sampling s with
  | false => exact peerUndefined_of_not_sampling hs
  | true =>
    obtain ⟨hf, hk⟩ : edgeFires s = true ∧ samplingEdge s.par.cpha s.sh.cnt = true := by simpa [sampling] using hs
    have hrun : s.sh.run = true := by simp [edgeFires] at hf; exact hf.2
    have hk16 := h.run_iff.mp hrun
    have hlt := h.received_lt hk16 hk
    have hlen : (sentBits s.par.cpha ev).length = sampled s.par.cpha k := h.sent_length.trans h.shifted.recv_length
    refine peerUndefined_of_defined hd h.peer (by rw [hlen]; exact h.shifted.sent_eq) (by rw [h.sent_length]; exact hlt) ?_
    rw [hlen]
    rw [samplingEdge_iff, h.counted.parity] at hk
    cases hc : s.par.cpha with
    | false =>
      have hodd : k % 2 ≠ 1 := by simpa [hc] using hk
      rw [h.shifted.first hc, sampled, if_neg (by simp)]
      congr 2; omega
    | true =>
      have hodd : k % 2 = 1 := by simpa [hc] using hk
      rw [h.shifted.second hc (by omega), sampled, if_pos rfl]
      congr 2; omega

/-- After 16 edges the byte was sent, and what was received is in the register (R61). -/
theorem Exchanging.carried (h : Exchanging tx base p 16 ev s) : Carried s.par.cpha ev [tx] [s.sh.sr] := by
  obtain ⟨hsent, hrecv, _⟩ := h.shifted.complete
  exact ⟨h.unsel, by rw [hsent]; rfl, by rw [hsent, bytesOf_msbBits], by rw [hrecv]; rfl, by rw [hrecv, bytesOf_msbBits]⟩

/-- After 16 edges the peer has heard the byte. -/
theorem Exchanging.peer_complete (h : Exchanging tx base p 16 ev s) :
    s.peer = listen s.attached p (msbBits tx) := by
  rw [h.peer, h.shifted.complete.1]

/-- After 16 edges of the third byte of a read, the register holds what the reference peer drove. -/
theorem Exchanging.sr_driven (h : Exchanging tx base p 16 ev s) (ha : s.attached = .reference) (hbits : p.bits = 0)
    (hn : p.n = 2) (hd : p.dir = true) : s.sh.sr = Memory.read p.mem p.a.toNat := by
  obtain ⟨_, hrecv, _⟩ := h.shifted.complete
  have := h.driven ha hbits hn hd
  rw [hrecv] at this
  exact msbBits_injective this

end

end Sys2Proof.Machine
end

section
/-! SHIFT, the command bytes and the dummy byte as whole instructions (R61): the run of an exchange to its end. -/

namespace Sys2Proof.Machine

/-- The transport's registers while a byte started in `tr` is exchanged (R73, R74). -/
def duringExchange (tr : Transport) : Transport :=
  { tr with state := .xfer, idx := if tr.state = .setup then tr.idx else tr.idx + 1, done := false }

/-- The block in the middle or at the end of the exchange of `tx` that was started in `s`. -/
structure ExchangeRun (tx : Byte) (s u : State) : Prop where
  exchanging : ∃ k ev, Exchanging tx s.trace s.peer k ev u
  inv : invariants u = true
  tr : u.tr = duringExchange s.tr
  par : u.par = s.par
  slot : u.slot = s.slot
  attached : u.attached = s.attached
  host : s.par.requester = .host → u.sq = s.sq

/-- A tick that starts a byte moves the transport to it. -/
theorem transportNext_of_start {s : State} {b : Byte} (hb : startByte s = some b) :
    transportNext s = duringExchange s.tr := by
  rcases startByte_some hb with ⟨hs, hw, _⟩ | ⟨hs, ho, hi, _⟩
  · simp [transportNext_of_setup_over hs hw, duringExchange, hs]
  · have hk : keepPayload s = s.tr := keepPayload_of_discarded fun ⟨h2, _⟩ => by simp [h2] at hi
    simp [transportNext_of_next_exchange hs ho hi, hk, duringExchange, hs]

theorem exchangeRun_start {s : State} {b : Byte} (hu : undisturbed s = true) (hb : startByte s = some b) :
    ExchangeRun b s (advance s) :=
  ⟨⟨0, [], exchanging_start hu hb⟩, invariants_advance (undisturbed_invariants hu), transportNext_of_start hb, rfl, rfl,
    rfl, sequencerNext_of_host⟩

section
variable {tx : Byte} {s u : State}

theorem exchangeRun_drive (h : ExchangeRun tx s u) : ExchangeRun tx s (drive u) := by
  obtain ⟨⟨k, ev, hx⟩, hinv, htr, hpar, hslot, hat, hhost⟩ := h
  exact ⟨⟨k, ev, exchanging_drive hx⟩, by rwa [invariants_drive], by rwa [drive_tr], by rwa [drive_par],
    by rwa [drive_slot], by rwa [drive_attached], by rwa [drive_sq]⟩

/-- A tick of a running exchange: the transport waits, and only the exchange goes on. -/
theorem exchangeRun_advance (h : ExchangeRun tx s u) (hr : u.sh.run = true) : ExchangeRun tx s (advance u) := by
  obtain ⟨k, ev, hx⟩ := h.exchanging
  have hc := ((invariants_iff_consistent u).mp h.inv).2.1
  obtain ⟨ev', hx'⟩ := exchanging_advance hx hc hr
  have htr : transportNext u = { u.tr with done := false } :=
    transportNext_of_waiting_xfer (hc.run hr) (ovf_eq_false_of_running hc hr)
  exact ⟨⟨_, _, hx'⟩, invariants_advance h.inv, by rw [advance_tr, htr, h.tr]; rfl, h.par, h.slot, h.attached,
    fun hp => (sequencerNext_of_host (by rw [h.par, hp])).trans (h.host hp)⟩

/-- How many clock edges a running exchange has left. -/
def edgesLeft (u : State) : Nat := if u.sh.run then 16 - u.sh.cnt.toNat else 0

theorem edgesLeft_of_counted {k : Nat} (h : Counted k u.sh) : edgesLeft u = 16 - k := by
  have hle := h.le
  rw [edgesLeft, h.run, h.cnt]
  by_cases hk : k < 16
  · simp [hk, Nat.mod_eq_of_lt hk]
  · simp [hk]; omega

/-- Under calm inputs an exchange the peer gives a meaning goes on to its 16th edge, with an edge for each strobe. -/
theorem exchange_progress (hd : Defined s.attached s.peer tx) :
    Progress calm exchangeOver (ExchangeRun tx s) edgesLeft where
  goesOn u h hstop hcalm := by
    have hr : u.sh.run = true := by simpa [exchangeOver] using hstop
    obtain ⟨k, ev, hx⟩ := h.exchanging
    have hu : undisturbed u = true :=
      undisturbed_of_calm h.inv (peerUndefined_of_exchanging hx (h.attached ▸ hd)) hcalm
    have hc := undisturbed_consistent (s := drive u) (by rw [drive_undisturbed, hu])
    have hr' : (drive u).sh.run = true := by rw [drive_sh, hr]
    obtain ⟨ev', hx'⟩ := exchanging_advance (exchanging_drive hx) hc hr'
    refine ⟨_, clock_of_undisturbed hu, exchangeRun_advance (exchangeRun_drive h) hr', ?_⟩
    have hk := hx.run_iff.mp hr
    rw [edgesLeft_of_counted hx'.counted, edgesLeft_of_counted hx.counted, drive_edgeTick]
    cases u.inp.edgeTick with
    | true => simp; omega
    | false => simp
  ended u h := by
    obtain ⟨k, ev, hx⟩ := h.exchanging
    have hle := hx.counted.le
    rw [edgesLeft_of_counted hx.counted, exchangeOver, hx.counted.run]
    simp; omega

/-- Where no edge is left, the exchange is complete. -/
theorem ExchangeRun.complete (h : ExchangeRun tx s u) (hr : u.sh.run = false) :
    ∃ ev, Exchanging tx s.trace s.peer 16 ev u := by
  obtain ⟨k, ev, hx⟩ := h.exchanging
  have hle := hx.counted.le
  have hk : ¬ k < 16 := fun hk => by simp [hx.run_iff.mpr hk] at hr
  obtain rfl : k = 16 := by omega
  exact ⟨ev, hx⟩

/-- What a completed exchange leaves (R61). -/
theorem ExchangeRun.exchanged (h : ExchangeRun tx s u) (hr : u.sh.run = false) (hclk : s.sh.sclk = s.par.cpol) :
    Exchanged tx s u := by
  obtain ⟨ev, hx⟩ := h.complete hr
  obtain ⟨_, _, hsdo⟩ := hx.shifted.complete
  have hc := ((invariants_iff_consistent u).mp h.inv).2.1
  exact ⟨⟨ev, hx.trace, h.par ▸ hx.carried⟩, hx.counted.ovf, hr, hx.counted.cnt,
    by rw [sclk_of_stopped hc hr, h.par, hclk], hsdo, h.tr⟩

end

theorem startsByte_iff (b : Byte) (s : State) : startsByte b s = true ↔
    undisturbed s = true ∧ s.sh.run = false ∧ startByte s = some b ∧ Defined s.attached s.peer b := by
  rw [← peerListens_iff]
  simp [startsByte, and_assoc]

theorem exchange_of_started {s : State} {b : Byte} (hu : undisturbed s = true) (hr : s.sh.run = false)
    (hb : startByte s = some b) : exchange true b s = runOn exchangeOver s.env (advance s) := by
  simp [exchange, undisturbed_rst hu, hr, hb, tick_of_undisturbed hu]

/-- A byte the transport starts is exchanged to the end, where the calm schedule has the strobes for it. -/
theorem exchange_completes {b : Byte} {s : State} (h : startsByte b s = true) (henv : s.env.all calm = true)
    (hn : 16 ≤ strobes s.env) : ∃ t, exchange true b s = .next t ∧ ExchangeRun b s t ∧ Exchanged b s t := by
  obtain ⟨hu, hr, hb, hd⟩ := (startsByte_iff b s).mp h
  have hleft : edgesLeft (advance s) = 16 := edgesLeft_of_counted (exchanging_start hu hb).counted
  obtain ⟨t, ht, hrun, hend⟩ := runOn_of_progress (exchange_progress hd) s.env (advance s)
    (onSchedule_tick (tick_of_undisturbed hu)) henv (exchangeRun_start hu hb)
  have hstop : t.sh.run = false := by simpa [exchangeOver] using hend (by rw [hleft]; exact hn)
  exact ⟨t, (exchange_of_started hu hr hb).trans ht, hrun,
    hrun.exchanged hstop (sclk_of_stopped (undisturbed_consistent hu) hr)⟩

/-- Settles O13: SHIFT is the exchange of its byte. -/
theorem shiftExchangesOneByte : Obligations.ShiftExchangesOneByte := by
  intro tx s h henv hn
  obtain ⟨t, ht, _, hx⟩ := exchange_completes h henv hn
  exact ⟨t, ht, hx⟩

/-- Settles O14: each of the three is the exchange of its byte, in its place. -/
theorem commandAndDummyBytesAreExchanged : Obligations.CommandAndDummyBytesAreExchanged := by
  refine ⟨fun a s hs h henv hn => ?_, fun a s hs h henv hn => ?_, fun s hs hi h henv hn => ?_⟩ <;>
    obtain ⟨t, ht, _, hx⟩ := exchange_completes h henv hn <;> refine ⟨t, ?_, hx⟩
  · rw [exec, execCmdWrite, hs]; exact ht
  · rw [exec, execCmdRead, hs]; exact ht
  · have hplace : (decide (s.tr.state = .xfer) && (decide (s.tr.idx = 0) || s.tr.dir)) = true := by simpa [hs] using hi
    rw [exec, execDummy, hplace]; exact ht

/-- Settles O15: the register holds the bits received, and those are the bits sent. -/
theorem loopbackReturnsTheByte : Obligations.LoopbackReturnsTheByte := by
  intro tx s h henv hn
  obtain ⟨t, ht, hrun, hx⟩ := exchange_completes h henv hn
  obtain ⟨ev, hex⟩ := hrun.complete hx.2.2.1
  obtain ⟨hsent, hrecv, _⟩ := hex.shifted.complete
  have hback : receivedBits ev = sentBits s.par.cpha ev → t.sh.sr = tx := fun heq => by
    rw [← hrun.par, hsent, hrecv] at heq
    exact msbBits_injective heq
  exact ⟨t, ev, ht, hex.trace, hback,
    fun ha => hback ((hex.looped (hrun.attached.trans ha)).trans (by rw [hrun.par]))⟩

/-! What an exchange leaves alone. -/

/-- The four byte forms are exchanges. -/
theorem exec_eq_exchange {i : Instr} {tx : Byte} {a : Addr}
    (hi : i = .shift tx ∨ i = .cmdWrite a ∨ i = .cmdRead a ∨ i = .dummy) (s : State) :
    ∃ place b, exec i s = exchange place b s := by
  rcases hi with rfl | rfl | rfl | rfl <;> exact ⟨_, _, rfl⟩

/-- What an exchange answers, complete or as far as the schedule goes. -/
theorem exchangeRun_of_next {place : Bool} {b : Byte} {s t : State} (hr : s.inp.rst = false)
    (henv : s.env.all calm = true) (h : exchange place b s = .next t) : ExchangeRun b s t := by
  rcases exchange_next h with ⟨hr', _⟩ | ⟨_, _, hb, hu, hrun⟩
  · simp [hr] at hr'
  · refine runOn_keeps_under (ok := calm) (fun u v hp hstop hcalm hclock => ?_) s.env (advance s) t
      (onSchedule_tick (tick_of_undisturbed hu)) henv (exchangeRun_start hu hb) hrun
    obtain ⟨_, rfl⟩ := tick_next_of_unreset (s := drive u) (by rw [drive_rst, ((calm_iff _).mp hcalm).1]) hclock
    exact exchangeRun_advance (exchangeRun_drive hp) (by rw [drive_sh]; simpa [exchangeOver] using hstop)

/-- One exchange reaches the peer's space as one byte does. -/
theorem ExchangeRun.memory_read {tx : Byte} {s t : State} (h : ExchangeRun tx s t) {k : Nat}
    (hk : s.attached = .reference ∧ s.peer.n = 2 ∧ s.peer.dir = false → k ≠ s.peer.a.toNat) :
    Memory.read t.peer.mem k = Memory.read s.peer.mem k := by
  obtain ⟨_, ev, hx⟩ := h.exchanging
  rw [hx.peer, h.attached, listen]
  split
  · next ha =>
    refine memory_read_foldl_peerBit (fun hw => hk ⟨ha, hw⟩) ?_
    rw [hx.shifted.sent_eq, List.length_take, length_msbBits]
    omega
  · rfl

/-- Settles O32: an exchange keeps to its own registers, and reaches the peer's space as the byte it completes. -/
theorem exchangesLeaveTheRestAlone : Obligations.ExchangesLeaveTheRestAlone := by
  intro i s t tx a hi hr henv h
  obtain ⟨place, b, he⟩ := exec_eq_exchange hi s
  have hrun := exchangeRun_of_next hr henv (he ▸ h)
  exact ⟨by rw [hrun.tr]; rfl, hrun.par, hrun.slot, hrun.attached, hrun.host, fun _ => hrun.memory_read⟩

end Sys2Proof.Machine
end

section
/-! A transaction (R72 to R75, R78, R79): the frame of a request, what the reference peer makes of it, and the phases the
block goes through from the acceptance to the release. -/

namespace Sys2Proof.Machine

/-! The frame (R53, R71). -/

/-- Byte `i` of the frame of a request. -/
def frameAt (r : Request) : Nat → Byte
  | 0 => commandByte r.dir (maskAddr r.addr)
  | 1 => dummyByte
  | _ => if r.dir then dummyByte else r.wdata

/-- The three bytes of a request's frame. -/
def frame (r : Request) : List Byte := [frameAt r 0, frameAt r 1, frameAt r 2]

theorem take_succ_frame (r : Request) {i : Nat} (hi : i < 3) :
    (frame r).take (i + 1) = (frame r).take i ++ [frameAt r i] := by
  interval_cases i <;> rfl

/-- The transport's registers in a transaction for `r` that was accepted in `s`. -/
def latched (r : Request) (s : State) (st : TState) (i w : Nat) : Transport :=
  { state := st, dir := r.dir, addr := maskAddr r.addr, wdata := r.wdata, idx := BitVec.ofNat 2 i, wait := w,
    csAsserted := true, rdata := s.tr.rdata, rdataValid := s.tr.rdataValid, done := false }

theorem frameByte_latched (r : Request) (s : State) (st : TState) (j w : Nat) {i : Nat} (hi : i < 3) :
    frameByte (latched r s st j w) (BitVec.ofNat 2 i) = frameAt r i := by
  interval_cases i <;> rfl

/-! What the reference peer makes of a frame (R48). -/

/-- The peer's state after `CsAssert` and the bytes `bytes` of a transaction accepted in `s`. -/
def heardBy (s : State) (bytes : List Byte) : RefPeer :=
  if s.attached = .reference then bytes.foldl peerHears (peerSelect s.peer) else s.peer

theorem peerHears_bits (p : RefPeer) (b : Byte) : (peerHears p b).bits = 0 := peerByte_bits _ b

theorem heardBy_bits {s : State} (ha : s.attached = .reference) (bytes : List Byte) : (heardBy s bytes).bits = 0 := by
  rw [heardBy, if_pos ha]
  induction bytes using List.reverseRecOn with
  | nil => rfl
  | append_singleton l b _ => rw [List.foldl_append]; exact peerHears_bits _ _

/-- One byte more on the bus is one byte more heard. -/
theorem listen_heardBy (s : State) (bytes : List Byte) (b : Byte) :
    listen s.attached (heardBy s bytes) (msbBits b) = heardBy s (bytes ++ [b]) := by
  by_cases ha : s.attached = .reference
  · have hb := heardBy_bits ha bytes
    rw [heardBy, if_pos ha] at hb
    rw [listen, if_pos ha, heardBy, heardBy, if_pos ha, if_pos ha, foldl_peerBit_msbBits hb, List.foldl_append]
    rfl
  · simp [listen, heardBy, ha]

theorem peerByte_of_first {p : RefPeer} (h : p.n = 0) (b : Byte) :
    peerByte p b = { p with dir := b.getLsbD 7, ai := b.getLsbD 6, a := b.extractLsb' 0 6, n := 1 } :=
  if_pos h

/-- The first byte is taken as a command (R48). -/
theorem peerHears_command (p : RefPeer) (d : Bool) (a : Addr) : peerHears (peerSelect p) (commandByte d a) =
    { mem := p.mem, n := 1, dir := d, ai := false, a := a, acc := commandByte d a, bits := 0 } := by
  rw [peerHears, peerByte_of_first rfl, commandByte_bit6, commandByte_bit7, commandByte_addr]
  rfl

/-- The second byte is only counted (R48). -/
theorem peerHears_second {p : RefPeer} (h : p.n = 1) (b : Byte) :
    peerHears p b = { p with acc := b, bits := 0, n := 2 } := by
  simp [peerHears, peerByte, h]

/-- After `i` bytes of a frame the peer counts `i`, and knows the command once it has heard it. -/
theorem heardBy_frame {s : State} (ha : s.attached = .reference) (r : Request) {i : Nat} (hi : i < 3) :
    (heardBy s ((frame r).take i)).n = i ∧ (heardBy s ((frame r).take i)).mem = s.peer.mem ∧
    (i ≠ 0 → (heardBy s ((frame r).take i)).ai = false ∧ (heardBy s ((frame r).take i)).dir = r.dir ∧
      (heardBy s ((frame r).take i)).a = maskAddr r.addr) := by
  rw [heardBy, if_pos ha]
  have h1 := peerHears_command s.peer r.dir (maskAddr r.addr)
  interval_cases i
  · exact ⟨rfl, rfl, fun h => absurd rfl h⟩
  · simp only [frame, frameAt, List.take, List.foldl, h1]
    exact ⟨trivial, trivial, fun _ => ⟨trivial, trivial, trivial⟩⟩
  · simp only [frame, frameAt, List.take, List.foldl, h1, peerHears_second]
    exact ⟨trivial, trivial, fun _ => ⟨trivial, trivial, trivial⟩⟩

/-- The reference peer gives every byte of a frame a meaning (R48). -/
theorem defined_frame {s : State} {att : Attached} (hatt : att = s.attached) (r : Request) {i : Nat} (hi : i < 3) :
    Defined att (heardBy s ((frame r).take i)) (frameAt r i) := by
  intro ha
  rw [hatt] at ha
  obtain ⟨hn, _, hcmd⟩ := heardBy_frame ha r hi
  refine ⟨heardBy_bits ha _, by rw [hn]; exact hi, ?_⟩
  rw [hn]
  by_cases h0 : i = 0
  · rw [if_pos h0, h0]; exact commandByte_bit6 _ _
  · rw [if_neg h0]; exact (hcmd h0).1

/-- What a whole frame does to the peer's space: a write changes the register addressed, a read none (R48). -/
theorem heardBy_frame_mem {s : State} (ha : s.attached = .reference) (r : Request) :
    (heardBy s (frame r)).mem =
      if r.dir then s.peer.mem else Memory.write s.peer.mem (maskAddr r.addr).toNat r.wdata := by
  obtain ⟨hn, hmem, hcmd⟩ := heardBy_frame ha r (i := 2) (by omega)
  obtain ⟨_, hdir, haddr⟩ := hcmd (by omega)
  have hstep : heardBy s (frame r) = peerHears (heardBy s ((frame r).take 2)) (frameAt r 2) := by
    rw [heardBy, heardBy, if_pos ha, if_pos ha]; rfl
  rw [hstep, peerHears, peerByte, if_neg (by simp [hn])]
  cases hd : r.dir with
  | true => simp [hdir, hd, hmem]
  | false => simp [hn, hdir, hd, hmem, haddr, frameAt]

/-! The phases. -/

/-- The trace of a transaction accepted in `s` with the events `ev` since `CsAssert`. -/
def opened (s : State) (ev : List BusEvent) : List BusEvent := s.trace ++ (.csAssert :: ev)

theorem opened_append (s : State) (ev fv : List BusEvent) : opened s (ev ++ fv) = opened s ev ++ fv := by
  simp [opened]

/-- `rdata` after a transaction whose third received byte is `rx` (R74). -/
def rdataAfter (r : Request) (s : State) (rx : Byte) : Byte := if r.dir then rx else s.tr.rdata

/-- `rdata_valid` after a transaction (R74). -/
def validAfter (r : Request) (s : State) : Bool := r.dir || s.tr.rdataValid

/-- The block `u` in a phase of the transaction for `r` that was accepted in `s`: the bytes sent and received so far are on
the trace, and the peer has heard those sent. -/
inductive Phase (r : Request) (s u : State) : Prop where
  | setup (w : Nat) (htr : u.tr = latched r s .setup 0 w) (htrace : u.trace = opened s [])
      (hpeer : u.peer = heardBy s [])
  | xfer (i k : Nat) (ev ev' : List BusEvent) (back : List Byte) (hi : i < 3) (htr : u.tr = latched r s .xfer i 0)
      (hcarried : Carried s.par.cpha ev ((frame r).take i) back) (hback : back.length = i)
      (hx : Exchanging (frameAt r i) (opened s ev) (heardBy s ((frame r).take i)) k ev' u)
  | hold (w : Nat) (ev : List BusEvent) (r0 r1 rx : Byte)
      (htr : u.tr = { latched r s .hold 2 w with rdata := rdataAfter r s rx, rdataValid := validAfter r s })
      (htrace : u.trace = opened s ev) (hcarried : Carried s.par.cpha ev (frame r) [r0, r1, rx])
      (hpeer : u.peer = heardBy s (frame r))
      (hread : s.attached = .reference → r.dir = true → rx = Memory.read s.peer.mem (maskAddr r.addr).toNat)
  | gap (ev : List BusEvent) (r0 r1 rx : Byte) (htr : u.tr = finished r (rdataAfter r s rx) (validAfter r s) s)
      (htrace : u.trace = opened s ev ++ [.csDeassert]) (hcarried : Carried s.par.cpha ev (frame r) [r0, r1, rx])
      (hpeer : u.peer = heardBy s (frame r))
      (hread : s.attached = .reference → r.dir = true → rx = Memory.read s.peer.mem (maskAddr r.addr).toNat)

/-- The block in the middle or at the end of the transaction for `r` that was accepted in `s`. -/
structure TransactionRun (r : Request) (s u : State) : Prop where
  phase : Phase r s u
  inv : invariants u = true
  par : u.par = s.par
  slot : u.slot = s.slot
  attached : u.attached = s.attached
  sq : u.sq = sequencerNext (present r s)

/-- How many ticks with a strobe a transaction has left (R84). -/
def ticksLeft (u : State) : Nat :=
  match u.tr.state with
  | .idle => 0
  | .setup => u.tr.wait + 53 + u.par.csHold
  | .xfer => (2 - u.tr.idx.toNat) * 17 + edgesLeft u + 2 + u.par.csHold
  | .hold => u.tr.wait + 1
  | .gap => 0

/-- From `u` to `v` a tick with a strobe takes one off the ticks left, and no tick adds to them. -/
def Nearer (u v : State) : Prop :=
  ticksLeft v ≤ ticksLeft u ∧ (u.inp.edgeTick = true → ticksLeft v + 1 = ticksLeft u)

theorem nearer_of_one {u v : State} (h : ticksLeft v + 1 = ticksLeft u) : Nearer u v := ⟨by omega, fun _ => h⟩

section
variable {r : Request} {s u : State}

theorem phase_drive (h : Phase r s u) : Phase r s (drive u) := by
  cases h with
  | setup w htr htrace hpeer => exact .setup w (by rwa [drive_tr]) (by rwa [drive_trace]) (by rwa [drive_peer])
  | xfer i k ev ev' back hi htr hcarried hback hx =>
    exact .xfer i k ev ev' back hi (by rwa [drive_tr]) hcarried hback (exchanging_drive hx)
  | hold w ev r0 r1 rx htr htrace hcarried hpeer hread =>
    exact .hold w ev r0 r1 rx (by rwa [drive_tr]) (by rwa [drive_trace]) hcarried (by rwa [drive_peer]) hread
  | gap ev r0 r1 rx htr htrace hcarried hpeer hread =>
    exact .gap ev r0 r1 rx (by rwa [drive_tr]) (by rwa [drive_trace]) hcarried (by rwa [drive_peer]) hread

theorem transactionRun_drive (h : TransactionRun r s u) : TransactionRun r s (drive u) := by
  obtain ⟨hphase, hinv, hpar, hslot, hat, hsq⟩ := h
  exact ⟨phase_drive hphase, by rwa [invariants_drive], by rwa [drive_par], by rwa [drive_slot], by rwa [drive_attached],
    by rwa [drive_sq]⟩

theorem ticksLeft_drive (u : State) : ticksLeft (drive u) = ticksLeft u := by
  simp only [ticksLeft, edgesLeft, drive_tr, drive_sh, drive_par]

/-! One tick of each phase. -/

/-- With the shifter stopped, a tick that does not move chip-select leaves the trace and the peer alone. -/
theorem quiet_advance (ha : accepting u = false) (hd : deasserting u = false) (hr : u.sh.run = false) :
    (advance u).trace = u.trace ∧ (advance u).peer = u.peer :=
  ⟨by rw [advance_trace, tickEvents_of_quiet ha hd hr, List.append_nil],
    peerNext_of_quiet ha (sampling_of_not_edge (edgeFires_of_stopped hr))⟩

/-- A tick that starts byte `i` begins its exchange where the trace and the peer are. -/
theorem phase_of_start (hu : undisturbed u = true) {i : Nat} (hi : i < 3) {ev : List BusEvent} {back : List Byte}
    (hb : startByte u = some (frameAt r i)) (htr : transportNext u = latched r s .xfer i 0) (htrace : u.trace = opened s ev)
    (hpeer : u.peer = heardBy s ((frame r).take i)) (hcarried : Carried s.par.cpha ev ((frame r).take i) back)
    (hback : back.length = i) :
    Phase r s (advance u) ∧ ticksLeft (advance u) = (2 - i) * 17 + 18 + u.par.csHold := by
  have hx := exchanging_start hu hb
  refine ⟨.xfer i 0 ev [] back hi htr hcarried hback (htrace ▸ hpeer ▸ hx), ?_⟩
  have hleft : edgesLeft (advance u) = 16 := edgesLeft_of_counted hx.counted
  rw [ticksLeft, advance_tr, htr]
  simp only [latched, hleft, BitVec.toNat_ofNat, Nat.mod_eq_of_lt (show i < 2 ^ 2 by omega), advance_par]

/-- `SETUP`: wait, then start the command byte (R73). -/
theorem phase_advance_setup (hu : undisturbed u = true) {w : Nat} (htr : u.tr = latched r s .setup 0 w)
    (htrace : u.trace = opened s []) (hpeer : u.peer = heardBy s []) : Phase r s (advance u) ∧ Nearer u (advance u) := by
  have hs : u.tr.state = .setup := by rw [htr]; rfl
  have hw : u.tr.wait = w := by rw [htr]; rfl
  have hleft : ticksLeft u = w + 53 + u.par.csHold := by rw [ticksLeft, hs, hw]
  rcases Nat.eq_zero_or_pos w with h0 | h0
  · have hb : startByte u = some (frameAt r 0) := by
      rw [startByte_of_setup_over hs (hw.trans h0), htr]
      exact congrArg some (frameByte_latched r s .setup 0 w (i := 0) (by omega))
    have htr' : transportNext u = latched r s .xfer 0 0 := by
      rw [transportNext_of_setup_over hs (hw.trans h0), htr, h0]; rfl
    obtain ⟨hphase, hnew⟩ := phase_of_start hu (by omega) hb htr' htrace hpeer (carried_nil _) rfl
    exact ⟨hphase, nearer_of_one (by rw [hnew, hleft, h0]; omega)⟩
  · have htr' : transportNext u = latched r s .setup 0 (w - 1) := by
      rw [transportNext_of_waiting_setup hs (hw ▸ h0), htr]; rfl
    obtain ⟨htrace', hpeer'⟩ := quiet_advance (accepting_of_busy (by simp [hs])) (by simp [deasserting, hs])
      (run_eq_false_of_not_xfer (undisturbed_consistent hu) (by simp [hs]))
    have hnew : ticksLeft (advance u) = w - 1 + 53 + u.par.csHold := by
      rw [ticksLeft, advance_tr, htr', advance_par]; rfl
    exact ⟨.setup (w - 1) htr' (htrace'.trans htrace) (hpeer'.trans hpeer), nearer_of_one (by rw [hnew, hleft]; omega)⟩

/-- `XFER`, an exchange running: it takes an edge or waits (R74). -/
theorem phase_advance_running (hu : undisturbed u = true) {i k : Nat} {ev ev' : List BusEvent} {back : List Byte}
    (hi : i < 3) (htr : u.tr = latched r s .xfer i 0) (hcarried : Carried s.par.cpha ev ((frame r).take i) back)
    (hback : back.length = i)
    (hx : Exchanging (frameAt r i) (opened s ev) (heardBy s ((frame r).take i)) k ev' u) (hk : k < 16) :
    Phase r s (advance u) ∧ Nearer u (advance u) := by
  have hc := undisturbed_consistent hu
  have hr := hx.run_iff.mpr hk
  have hs : u.tr.state = .xfer := hc.run hr
  obtain ⟨ev'', hx'⟩ := exchanging_advance hx hc hr
  have htr' : transportNext u = u.tr := by
    rw [transportNext_of_waiting_xfer hs (ovf_eq_false_of_running hc hr), htr]; rfl
  refine ⟨.xfer i _ ev ev'' back hi (htr'.trans htr) hcarried hback hx', ?_⟩
  have hleft : ticksLeft u = (2 - u.tr.idx.toNat) * 17 + (16 - k) + 2 + u.par.csHold := by
    rw [ticksLeft, hs, edgesLeft_of_counted hx.counted]
  have hnew : ticksLeft (advance u) =
      (2 - u.tr.idx.toNat) * 17 + (16 - if u.inp.edgeTick then k + 1 else k) + 2 + u.par.csHold := by
    rw [ticksLeft, advance_tr, htr', hs, edgesLeft_of_counted hx'.counted, advance_par]
  rw [Nearer, hleft, hnew]
  cases u.inp.edgeTick with
  | true => simp; omega
  | false => simp

/-- `XFER`, an exchange complete: the next one starts, or the transport goes to `HOLD` (R74). -/
theorem phase_advance_complete (hu : undisturbed u = true) (hpar : u.par = s.par) (hat : u.attached = s.attached)
    {i : Nat} {ev ev' : List BusEvent} {back : List Byte}
    (hi : i < 3) (htr : u.tr = latched r s .xfer i 0) (hcarried : Carried s.par.cpha ev ((frame r).take i) back)
    (hback : back.length = i)
    (hx : Exchanging (frameAt r i) (opened s ev) (heardBy s ((frame r).take i)) 16 ev' u) :
    Phase r s (advance u) ∧ Nearer u (advance u) := by
  have hs : u.tr.state = .xfer := by rw [htr]; rfl
  have hidx : u.tr.idx = BitVec.ofNat 2 i := by rw [htr]; rfl
  have ho : u.sh.ovf = true := hx.counted.ovf
  have hr : u.sh.run = false := hx.counted.run
  have htrace : u.trace = opened s (ev ++ ev') := by rw [hx.trace, opened_append]
  have hsofar : Carried s.par.cpha (ev ++ ev') ((frame r).take (i + 1)) (back ++ [u.sh.sr]) := by
    rw [take_succ_frame r hi]; exact carried_append hcarried (hpar ▸ hx.carried)
  have hpeer : u.peer = heardBy s ((frame r).take (i + 1)) := by
    rw [hx.peer_complete, hat, listen_heardBy, take_succ_frame r hi]
  have hleft : ticksLeft u = (2 - i) * 17 + 2 + u.par.csHold := by
    rw [ticksLeft, hs, edgesLeft_of_counted hx.counted, hidx]
    simp [Nat.mod_eq_of_lt (show i < 4 by omega)]
  by_cases hlast : i = 2
  · subst hlast
    obtain ⟨r0, r1, rfl⟩ : ∃ r0 r1, back = [r0, r1] := List.length_eq_two.mp hback
    have hn : ¬ u.tr.idx < 2#2 := by rw [hidx]; decide
    have htr' : transportNext u = { latched r s .hold 2 s.par.csHold with
        rdata := rdataAfter r s u.sh.sr, rdataValid := validAfter r s } := by
      rw [transportNext_of_last_exchange hs ho hn, hpar]
      cases hd : r.dir with
      | true => rw [keepPayload_of_payload ⟨hidx, by rw [htr]; exact hd⟩, htr]; simp [latched, rdataAfter, validAfter, hd]
      | false =>
        rw [keepPayload_of_discarded (by rw [htr]; simp [latched, hd]), htr]; simp [latched, rdataAfter, validAfter, hd]
    obtain ⟨htrace', hpeer'⟩ := quiet_advance (accepting_of_busy (by simp [hs])) (by simp [deasserting, hs]) hr
    refine ⟨.hold s.par.csHold (ev ++ ev') r0 r1 u.sh.sr htr' (htrace'.trans htrace) hsofar (hpeer'.trans hpeer)
      fun ha hd => ?_, nearer_of_one ?_⟩
    · obtain ⟨hn, hmem, hcmd⟩ := heardBy_frame ha r (i := 2) (by omega)
      obtain ⟨_, hdir, haddr⟩ := hcmd (by omega)
      rw [hx.sr_driven (hat.trans ha) (heardBy_bits ha _) hn (hdir.trans hd), hmem, haddr]
    · rw [hleft, ticksLeft, advance_tr, htr', hpar]; simp only [latched]; omega
  · have hi1 : i + 1 < 3 := by omega
    have hlt : u.tr.idx < 2#2 := by
      rw [hidx, BitVec.lt_def]; simp [Nat.mod_eq_of_lt (show i < 4 by omega)]; omega
    have hnext : u.tr.idx + 1 = BitVec.ofNat 2 (i + 1) := by rw [hidx, BitVec.ofNat_add]; rfl
    have hb : startByte u = some (frameAt r (i + 1)) := by
      rw [startByte_of_acknowledge hs ho hlt, hnext, htr, frameByte_latched r s .xfer i 0 hi1]
    have htr' : transportNext u = latched r s .xfer (i + 1) 0 := by
      rw [transportNext_of_next_exchange hs ho hlt, hnext,
        keepPayload_of_discarded (fun ⟨h2, _⟩ => by simp [h2] at hlt), htr]; rfl
    obtain ⟨hphase, hnew⟩ := phase_of_start hu hi1 hb htr' htrace hpeer hsofar (by simp [hback])
    exact ⟨hphase, nearer_of_one (by rw [hnew, hleft]; omega)⟩

/-- `HOLD`: wait, then release (R75). -/
theorem phase_advance_hold (hu : undisturbed u = true) (hpar : u.par = s.par) {w : Nat} {ev : List BusEvent}
    {r0 r1 rx : Byte}
    (htr : u.tr = { latched r s .hold 2 w with rdata := rdataAfter r s rx, rdataValid := validAfter r s })
    (htrace : u.trace = opened s ev) (hcarried : Carried s.par.cpha ev (frame r) [r0, r1, rx])
    (hpeer : u.peer = heardBy s (frame r))
    (hread : s.attached = .reference → r.dir = true → rx = Memory.read s.peer.mem (maskAddr r.addr).toNat) :
    Phase r s (advance u) ∧ Nearer u (advance u) := by
  have hs : u.tr.state = .hold := by rw [htr]; rfl
  have hw : u.tr.wait = w := by rw [htr]; rfl
  have hr := run_eq_false_of_not_xfer (undisturbed_consistent hu) (by simp [hs])
  have ha : accepting u = false := accepting_of_busy (by simp [hs])
  have hleft : ticksLeft u = w + 1 := by rw [ticksLeft, hs, hw]
  rcases Nat.eq_zero_or_pos w with h0 | h0
  · have htr' : transportNext u = finished r (rdataAfter r s rx) (validAfter r s) s := by
      rw [transportNext_of_hold_over hs (hw.trans h0), htr, hpar]; rfl
    have hpeer' : peerNext u = u.peer := peerNext_of_quiet ha (sampling_of_not_edge (edgeFires_of_stopped hr))
    refine ⟨.gap ev r0 r1 rx htr' ?_ hcarried (hpeer'.trans hpeer) hread, nearer_of_one ?_⟩
    · rw [advance_trace, tickEvents_of_deasserting (by simp [deasserting, hs, hw, h0]), htrace]
    · rw [hleft, ticksLeft, advance_tr, htr', h0]; rfl
  · have htr' : transportNext u =
        { latched r s .hold 2 (w - 1) with rdata := rdataAfter r s rx, rdataValid := validAfter r s } := by
      rw [transportNext_of_waiting_hold hs (hw ▸ h0), htr]; rfl
    obtain ⟨htrace', hpeer'⟩ := quiet_advance ha (by simp [deasserting, hw, Nat.ne_of_gt h0]) hr
    refine ⟨.hold (w - 1) ev r0 r1 rx htr' (htrace'.trans htrace) hcarried (hpeer'.trans hpeer) hread, nearer_of_one ?_⟩
    rw [hleft, ticksLeft, advance_tr, htr']; simp only [latched]; omega

/-- One undisturbed tick of a transaction that is not over. -/
theorem phase_advance (h : TransactionRun r s u) (hu : undisturbed u = true) (hcs : u.tr.csAsserted = true) :
    Phase r s (advance u) ∧ Nearer u (advance u) := by
  cases h.phase with
  | setup w htr htrace hpeer => exact phase_advance_setup hu htr htrace hpeer
  | xfer i k ev ev' back hi htr hcarried hback hx =>
    rcases Nat.lt_or_eq_of_le hx.counted.le with hk | rfl
    · exact phase_advance_running hu hi htr hcarried hback hx hk
    · exact phase_advance_complete hu h.par h.attached hi htr hcarried hback hx
  | hold w ev r0 r1 rx htr htrace hcarried hpeer hread =>
    exact phase_advance_hold hu h.par htr htrace hcarried hpeer hread
  | gap ev r0 r1 rx htr _ _ _ _ => rw [htr] at hcs; simp [finished] at hcs

/-- `done` is 0 until the release (R18). -/
theorem Phase.done_eq_false (h : Phase r s u) (hcs : u.tr.csAsserted = true) : u.tr.done = false := by
  cases h with
  | setup w htr _ _ => rw [htr]; rfl
  | xfer i k ev ev' back hi htr _ _ _ => rw [htr]; rfl
  | hold w ev r0 r1 rx htr _ _ _ _ => rw [htr]; rfl
  | gap ev r0 r1 rx htr _ _ _ _ => rw [htr] at hcs; simp [finished] at hcs

/-- The sequencer stands while its request is on the bus (R91), and a host's always. -/
def Waits (q : Sequencer) (p : Params) : Prop :=
  p.requester = .host ∨ (q.state = .configuring ∧ q.issued = true)

theorem sequencerNext_of_waits {u : State} (h : Waits u.sq u.par) (hd : u.tr.done = false) : sequencerNext u = u.sq := by
  cases hp : u.par.requester with
  | host => exact sequencerNext_of_host hp
  | sequencer =>
    obtain ⟨hs, hi⟩ : u.sq.state = .configuring ∧ u.sq.issued = true := by simpa [Waits, hp] using h
    rw [sequencerNext_of_configuring hp hs, sequencerConfiguring_of_unfinished hi hd]

theorem transactionRun_advance (hq : Waits (sequencerNext (present r s)) s.par) (h : TransactionRun r s u)
    (hu : undisturbed u = true) (hcs : u.tr.csAsserted = true) :
    TransactionRun r s (advance u) ∧ Nearer u (advance u) := by
  obtain ⟨hphase, hnear⟩ := phase_advance h hu hcs
  have hsq : sequencerNext u = u.sq :=
    sequencerNext_of_waits (by rw [h.sq, h.par]; exact hq) (h.phase.done_eq_false hcs)
  exact ⟨⟨hphase, invariants_advance h.inv, h.par, h.slot, h.attached, hsq.trans h.sq⟩, hnear⟩

/-- Nothing is undefined at the peer in a transaction (R48). -/
theorem TransactionRun.peerUndefined (h : TransactionRun r s u) : peerUndefined u = false := by
  have hc := ((invariants_iff_consistent u).mp h.inv).2.1
  have hstopped : u.tr.state ≠ .xfer → Machine.peerUndefined u = false := fun hx =>
    peerUndefined_of_not_sampling (sampling_of_not_edge (edgeFires_of_stopped (run_eq_false_of_not_xfer hc hx)))
  cases h.phase with
  | setup w htr _ _ => exact hstopped (by rw [htr]; simp [latched])
  | xfer i k ev ev' back hi _ _ _ hx => exact peerUndefined_of_exchanging hx (defined_frame h.attached r hi)
  | hold w ev r0 r1 rx htr _ _ _ _ => exact hstopped (by rw [htr]; simp [latched])
  | gap ev r0 r1 rx htr _ _ _ _ => exact hstopped (by rw [htr]; simp [finished])

/-- Where no tick is left, chip-select is released, and nowhere before. -/
theorem Phase.ticksLeft_eq_zero (h : Phase r s u) : ticksLeft u = 0 ↔ transactionOver u = true := by
  cases h with
  | setup w htr _ _ => simp [ticksLeft, transactionOver, htr, latched]
  | xfer i k ev ev' back hi htr _ _ _ => simp [ticksLeft, transactionOver, htr, latched]
  | hold w ev r0 r1 rx htr _ _ _ _ => simp [ticksLeft, transactionOver, htr, latched]
  | gap ev r0 r1 rx htr _ _ _ _ => simp [ticksLeft, transactionOver, htr, finished]

/-- Under calm inputs a transaction goes on to its release, a tick nearer with each strobe (R84). -/
theorem transaction_progress (hq : Waits (sequencerNext (present r s)) s.par) :
    Progress calm transactionOver (TransactionRun r s) ticksLeft where
  goesOn u h hstop hcalm := by
    have hu : undisturbed u = true := undisturbed_of_calm h.inv h.peerUndefined hcalm
    obtain ⟨hrun, hle, hone⟩ := transactionRun_advance hq (transactionRun_drive h) (by rw [drive_undisturbed, hu])
      (by rw [drive_tr]; simpa [transactionOver] using hstop)
    rw [ticksLeft_drive] at hle hone
    rw [drive_edgeTick] at hone
    exact ⟨_, clock_of_undisturbed hu, hrun, hle, hone⟩
  ended u h := h.phase.ticksLeft_eq_zero

end

end Sys2Proof.Machine
end

section
/-! WRITE_REG, READ_REG and the two frames as whole instructions (R78, R79, R84): from the acceptance to the release. -/

namespace Sys2Proof.Machine

/-! The acceptance (R72). -/

theorem takesRequest_iff (r : Request) (s : State) : takesRequest r s = true ↔
    s.tr.state = .idle ∧ undisturbed s = true ∧
      (s.par.requester = .host ∨ (portValid s = true ∧ portRequest s = r)) := by
  simp [takesRequest, and_assoc]

/-- A ready host's request is accepted, whatever it asks. -/
theorem takesRequest_of_hostReady {s : State} (h : hostReady s = true) (r : Request) : takesRequest r s = true := by
  obtain ⟨hp, hs, hu⟩ := (hostReady_iff s).mp h
  exact (takesRequest_iff r s).mpr ⟨hs, hu, .inl hp⟩

/-- With an accepted request presented, that request is the one at the port. -/
theorem port_of_taken {r : Request} {s : State} (h : takesRequest r s = true) :
    portValid (present r s) = true ∧ portRequest (present r s) = r := by
  obtain ⟨_, _, hp⟩ := (takesRequest_iff r s).mp h
  cases hreq : s.par.requester with
  | host => exact ⟨portValid_present hreq r, portRequest_present hreq r⟩
  | sequencer =>
    obtain ⟨hv, hr⟩ : portValid s = true ∧ portRequest s = r := by simpa [hreq] using hp
    have hq : (present r s).par.requester = .sequencer := hreq
    rw [portValid_iff_of_sequencer hreq] at hv
    rw [portRequest_of_sequencer hreq] at hr
    exact ⟨(portValid_iff_of_sequencer hq).mpr hv, (portRequest_of_sequencer hq).trans hr⟩

section
variable {r : Request} {s : State} (h : takesRequest r s = true)
include h

/-- The tick that accepts a request advances. -/
theorem tick_of_taken : tick (present r s) = .next (advance (present r s)) :=
  tick_of_undisturbed (s := present r s) ((takesRequest_iff r s).mp h).2.1

theorem onSchedule_of_taken : OnSchedule s.env (advance (present r s)) :=
  onSchedule_tick (s := present r s) (tick_of_taken h)

theorem accepting_of_taken : accepting (present r s) = true := by
  rw [accepting_of_idle (s := present r s) ((takesRequest_iff r s).mp h).1, (port_of_taken h).1]

/-- The transaction runs on from the tick that accepts it. -/
theorem transact_of_taken : transact r s = runOn transactionOver s.env (advance (present r s)) := by
  have hr : s.inp.rst = false := undisturbed_rst ((takesRequest_iff r s).mp h).2.1
  simp [transact, hr, accepting_of_taken h, (port_of_taken h).2, tick_of_taken h]

/-- The acceptance latches the request and loads `P_CS_SETUP` (R72). -/
theorem transportNext_of_taken : transportNext (present r s) = latched r s .setup 0 s.par.csSetup := by
  obtain ⟨hv, hr⟩ := port_of_taken h
  rw [transportNext_of_requested (s := present r s) ((takesRequest_iff r s).mp h).1 hv, hr]
  rfl

/-- After the acceptance the sequencer waits for the `done` of its own request (R90). -/
theorem waits_of_taken : Waits (sequencerNext (present r s)) s.par := by
  obtain ⟨hs, _, hp⟩ := (takesRequest_iff r s).mp h
  cases hreq : s.par.requester with
  | host => exact .inl hreq
  | sequencer =>
    obtain ⟨hv, _⟩ : portValid s = true ∧ portRequest s = r := by simpa [hreq] using hp
    obtain ⟨hq, hi⟩ := (portValid_iff_of_sequencer hreq).mp hv
    rw [sequencerNext_of_configuring (s := present r s) hreq hq,
      sequencerConfiguring_of_accepted (s := present r s) hi hs]
    exact .inr ⟨hq, rfl⟩

theorem transactionRun_start : TransactionRun r s (advance (present r s)) := by
  have hu : undisturbed (present r s) = true := ((takesRequest_iff r s).mp h).2.1
  have hpeer : peerNext (present r s) = heardBy s [] := by
    unfold peerNext heardBy
    rw [accepting_of_taken h]
    cases hat : s.attached <;> simp [hat]
  exact ⟨.setup _ (transportNext_of_taken h)
    (by rw [advance_trace, tickEvents_of_accepting (accepting_of_taken h)]; rfl) hpeer,
    invariants_advance (undisturbed_invariants hu), rfl, rfl, rfl, rfl⟩

theorem ticksLeft_start : ticksLeft (advance (present r s)) = 53 + s.par.csSetup + s.par.csHold := by
  rw [ticksLeft, advance_tr, transportNext_of_taken h]
  simp only [latched, advance_par, present_par]
  omega

/-- Under calm inputs an accepted transaction runs, and is over if the strobes are enough. -/
theorem transact_runs (henv : s.env.all calm = true) : ∃ t, transact r s = .next t ∧ TransactionRun r s t ∧
    (53 + s.par.csSetup + s.par.csHold ≤ strobes s.env → transactionOver t = true) := by
  obtain ⟨t, ht, hrun, hend⟩ := runOn_of_progress (transaction_progress (waits_of_taken h)) s.env _
    (onSchedule_of_taken h) henv (transactionRun_start h)
  exact ⟨t, (transact_of_taken h).trans ht, hrun, fun hn => hend (by rw [ticksLeft_start h]; exact hn)⟩

/-- With a strobe in every tick it is over after the counted number of ticks (R84). -/
theorem transact_counts (henv : s.env.all (fun i => calm i && i.edgeTick) = true)
    (hn : 53 + s.par.csSetup + s.par.csHold ≤ s.env.length) : ∃ t, transact r s = .next t ∧ TransactionRun r s t ∧
      transactionOver t = true ∧ t.now = s.now + 54 + s.par.csSetup + s.par.csHold := by
  obtain ⟨t, ht, hrun, hend, hnow⟩ := runOn_counts (transaction_progress (waits_of_taken h)) s.env _
    (onSchedule_of_taken h) henv (transactionRun_start h) (by rw [ticksLeft_start h]; exact hn)
  rw [ticksLeft_start h, advance_now, present_now] at hnow
  exact ⟨t, (transact_of_taken h).trans ht, hrun, hend, by omega⟩

end

/-! What a transaction that is over leaves. -/

/-- The released block: its registers, its window on the trace, and the peer. -/
theorem TransactionRun.transacted {r : Request} {s t : State} (h : TransactionRun r s t)
    (hover : transactionOver t = true) : ∃ r0 r1 rx,
      Transacted (frame r) [r0, r1, rx] (finished r (rdataAfter r s rx) (validAfter r s) s) s t ∧
      t.peer = heardBy s (frame r) ∧
      (s.attached = .reference → r.dir = true → rx = Memory.read s.peer.mem (maskAddr r.addr).toNat) := by
  have hc := ((invariants_iff_consistent t).mp h.inv).2.1
  cases h.phase with
  | setup w htr _ _ => simp [transactionOver, htr, latched] at hover
  | xfer i k ev ev' back hi htr _ _ _ => simp [transactionOver, htr, latched] at hover
  | hold w ev r0 r1 rx htr _ _ _ _ => simp [transactionOver, htr, latched] at hover
  | gap ev r0 r1 rx htr htrace hcarried hpeer hread =>
    have hx : t.tr.state ≠ .xfer := by rw [htr]; simp [finished]
    have hrun := run_eq_false_of_not_xfer hc hx
    have hovf : t.sh.ovf = false := Bool.eq_false_iff.mpr fun ho => hx (hc.ovf ho).2
    have htrace' : t.trace = s.trace ++ ([.csAssert] ++ ev ++ [.csDeassert]) := by rw [htrace]; simp [opened]
    exact ⟨r0, r1, rx, ⟨⟨ev, htrace', hcarried⟩, htr, hrun, hovf, hc.count hrun, h.par ▸ sclk_of_stopped hc hrun⟩,
      hpeer, hread⟩

theorem TransactionRun.done {r : Request} {s t : State} (h : TransactionRun r s t)
    (hover : transactionOver t = true) : t.tr.done = true := by
  obtain ⟨_, _, _, ⟨_, htr, _⟩, _⟩ := h.transacted hover
  rw [htr]; rfl

theorem frame_write (a v : Byte) :
    frame { dir := false, addr := a, wdata := v } = [a &&& 0x3F#8, 0xFF#8, v] := by
  rw [← commandByte_write]; rfl

theorem frame_read (a v : Byte) :
    frame { dir := true, addr := a, wdata := v } = [(a &&& 0x3F#8) ||| 0x80#8, 0xFF#8, 0xFF#8] := by
  rw [← commandByte_read]; rfl

/-- Settles O25: WRITE_REG is a transaction, and its frame is that of a write. -/
theorem writeRegPutsItsFrameOnTheBus : Obligations.WriteRegPutsItsFrameOnTheBus := by
  intro a v s h henv hn
  obtain ⟨t, ht, hrun, hover⟩ := transact_runs h henv
  obtain ⟨r0, r1, rx, htrans, _⟩ := hrun.transacted (hover hn)
  rw [frame_write] at htrans
  exact ⟨t, [r0, r1, rx], ht, rfl, htrans⟩

/-- Settles O26: READ_REG is a transaction, and `rdata` is the third byte received. -/
theorem readRegReturnsTheThirdByte : Obligations.ReadRegReturnsTheThirdByte := by
  intro a v s h henv hn
  obtain ⟨t, ht, hrun, hover⟩ := transact_runs h henv
  obtain ⟨r0, r1, rx, htrans, _⟩ := hrun.transacted (hover hn)
  rw [frame_read] at htrans
  exact ⟨t, r0, r1, rx, ht, htrans⟩

/-- The address of a frame, with the two ignored bits in front, is masked to itself. -/
theorem maskAddr_append (a : Addr) : maskAddr (0b00#2 ++ a) = a := BitVec.extractLsb'_append_eq_right

theorem frameWord_write (a : Addr) (v : Byte) :
    frameWord (frame { dir := false, addr := 0b00#2 ++ a, wdata := v }) = some (encode (.writeFrame a v)) := by
  simp only [frame, frameAt, maskAddr_append]; rfl

theorem frameWord_read (a : Addr) (v : Byte) :
    frameWord (frame { dir := true, addr := 0b00#2 ++ a, wdata := v }) = some (encode (.readFrame a)) := by
  simp only [frame, frameAt, maskAddr_append]; rfl

/-- Settles O27: each frame is the transaction of its request, whose three bytes are the frame's word. -/
theorem framesAreTheirWords : Obligations.FramesAreTheirWords := by
  intro a v s h henv hn
  refine ⟨?write, ?read⟩
  case write =>
    obtain ⟨t, ht, hrun, hover⟩ := transact_runs (takesRequest_of_hostReady h _) henv
    obtain ⟨r0, r1, rx, htrans, _⟩ := hrun.transacted (hover hn)
    exact ⟨t, _, _, ht, htrans, frameWord_write a v⟩
  case read =>
    obtain ⟨t, ht, hrun, hover⟩ := transact_runs (takesRequest_of_hostReady h _) henv
    obtain ⟨r0, r1, rx, htrans, _⟩ := hrun.transacted (hover hn)
    exact ⟨t, _, r0, r1, rx, ht, htrans, frameWord_read a 0⟩

/-- Settles O28: both operations are transactions, which take the counted ticks. -/
theorem doneIsSeenOnTheCountedTick : Obligations.DoneIsSeenOnTheCountedTick := by
  intro a v s henv hn
  refine ⟨fun h => ?_, fun h => ?_⟩ <;>
  · obtain ⟨t, ht, hrun, hover, hnow⟩ := transact_counts h henv hn
    exact ⟨t, ht, hrun.done hover, hnow⟩

/-! A fair strobe (R96). -/

theorem schedule_succ (ins : Nat → Inputs) (n : Nat) : schedule ins (n + 1) = schedule ins n ++ [ins n] := by
  simp [schedule, List.range_succ]

theorem strobes_schedule_succ (ins : Nat → Inputs) (n : Nat) :
    strobes (schedule ins (n + 1)) = strobes (schedule ins n) + if (ins n).edgeTick then 1 else 0 := by
  rw [schedule_succ, strobes, List.countP_append]
  simp [strobes, List.countP_cons]

theorem strobes_schedule_mono (ins : Nat → Inputs) : Monotone (fun n => strobes (schedule ins n)) :=
  monotone_nat_of_le_succ fun n => by rw [strobes_schedule_succ]; omega

/-- A fair strobe comes as often as one likes. -/
theorem exists_strobes_le {ins : Nat → Inputs} (h : EdgeFair ins) (m : Nat) : ∃ n, m ≤ strobes (schedule ins n) := by
  induction m with
  | zero => exact ⟨0, Nat.zero_le _⟩
  | succ m ih =>
    obtain ⟨n, hn⟩ := ih
    obtain ⟨u, hu, hedge⟩ := h n
    refine ⟨u + 1, ?_⟩
    have hmono := strobes_schedule_mono ins hu
    rw [strobes_schedule_succ, if_pos hedge]
    simp only at hmono
    omega

theorem all_schedule {ins : Nat → Inputs} (h : ∀ k, calm (ins k) = true) (n : Nat) :
    (schedule ins n).all calm = true := by
  simp [schedule, h]

/-- Under a fair strobe an accepted transaction ends, after some number of the inputs. -/
theorem transact_ends_of_fair {ins : Nat → Inputs} {r : Request} {s : State} (hcalm : ∀ k, calm (ins k) = true)
    (hfair : EdgeFair ins) (h : takesRequest r s = true) :
    ∃ n t, transact r { s with env := schedule ins n } = .next t ∧ t.tr.done = true := by
  obtain ⟨n, hn⟩ := exists_strobes_le hfair (53 + s.par.csSetup + s.par.csHold)
  obtain ⟨t, ht, hrun, hover⟩ := transact_runs (s := { s with env := schedule ins n }) h (all_schedule hcalm n)
  exact ⟨n, t, ht, hrun.done (hover hn)⟩

/-- Settles O17: both operations are transactions. -/
theorem fairStrobeEndsEveryRequest : Obligations.FairStrobeEndsEveryRequest := fun _ _ _ _ hcalm hfair =>
  ⟨transact_ends_of_fair hcalm hfair, transact_ends_of_fair hcalm hfair⟩

/-! The reference peer (R48). -/

/-- Settles O33: the peer has heard the frame of a write, and a read of what was written gives it back. -/
theorem writeReachesTheReferencePeer : Obligations.WriteReachesTheReferencePeer := by
  intro a v s h ha hwf henv hn
  obtain ⟨t, ht, hrun, hover⟩ := transact_runs h henv
  obtain ⟨_, _, _, _, hpeer, _⟩ := hrun.transacted (hover hn)
  refine ⟨t, ht, hrun.done (hover hn), ?_⟩
  rw [hpeer, heardBy_frame_mem ha]
  exact memory_read_write_same _ _ _ hwf

/-- Settles O34: the third byte is the register the peer drove, and the frame of a read writes none. -/
theorem readReturnsTheReferencePeersRegister : Obligations.ReadReturnsTheReferencePeersRegister := by
  intro a v s h ha henv hn
  obtain ⟨t, ht, hrun, hover⟩ := transact_runs (takesRequest_of_hostReady h { dir := true, addr := a, wdata := v }) henv
  obtain ⟨_, _, rx, ⟨_, htr, _⟩, hpeer, hread⟩ := hrun.transacted (hover hn)
  refine ⟨t, ht, hrun.done (hover hn), by rw [htr]; rfl, ?_, by rw [hpeer, heardBy_frame_mem ha]; rfl⟩
  rw [htr, ← hread ha rfl]
  rfl

/-! What a transaction leaves alone. -/

/-- In every phase the peer's space differs at most in the register a write addresses. -/
theorem Phase.memory_read {r : Request} {s u : State} (h : Phase r s u) (hat : u.attached = s.attached) {k : Nat}
    (hk : r.dir = false → k ≠ (maskAddr r.addr).toNat) : Memory.read u.peer.mem k = Memory.read s.peer.mem k := by
  by_cases ha : s.attached = .reference
  · have hwhole : Memory.read (heardBy s (frame r)).mem k = Memory.read s.peer.mem k := by
      rw [heardBy_frame_mem ha]
      cases hd : r.dir with
      | true => rfl
      | false => exact memory_read_write_other _ _ _ _ (hk hd)
    cases h with
    | setup w _ _ hpeer => rw [hpeer, heardBy, if_pos ha]; rfl
    | xfer i k' ev ev' back hi _ _ _ hx =>
      obtain ⟨hn, hmem, hcmd⟩ := heardBy_frame ha r hi
      have hwrites : (heardBy s ((frame r).take i)).n = 2 ∧ (heardBy s ((frame r).take i)).dir = false →
          k ≠ (heardBy s ((frame r).take i)).a.toNat := fun ⟨h2, hd⟩ => by
        obtain ⟨_, hdir, haddr⟩ := hcmd (by omega)
        rw [haddr]
        exact hk (hdir.symm.trans hd)
      have hlen : (sentBits u.par.cpha ev').length ≤ 8 := by
        rw [hx.shifted.sent_eq, List.length_take, length_msbBits]; omega
      rw [hx.peer, hat, listen, if_pos ha, memory_read_foldl_peerBit hwrites hlen, hmem]
    | hold w ev r0 r1 rx _ _ _ hpeer _ => rw [hpeer, hwhole]
    | gap ev r0 r1 rx _ _ _ hpeer _ => rw [hpeer, hwhole]
  · have hs : ∀ bytes, heardBy s bytes = s.peer := fun _ => if_neg ha
    cases h with
    | setup w _ _ hpeer => rw [hpeer, hs]
    | xfer i k' ev ev' back hi _ _ _ hx => rw [hx.peer, hat, listen, if_neg ha, hs]
    | hold w ev r0 r1 rx _ _ _ hpeer _ => rw [hpeer, hs]
    | gap ev r0 r1 rx _ _ _ hpeer _ => rw [hpeer, hs]

/-- In every phase of a write `rdata` and `rdata_valid` are as they were (R74). -/
theorem Phase.rdata_of_write {r : Request} {s u : State} (h : Phase r s u) (hd : r.dir = false) :
    u.tr.rdata = s.tr.rdata ∧ u.tr.rdataValid = s.tr.rdataValid := by
  cases h with
  | setup w htr _ _ => rw [htr]; exact ⟨rfl, rfl⟩
  | xfer i k ev ev' back hi htr _ _ _ => rw [htr]; exact ⟨rfl, rfl⟩
  | hold w ev r0 r1 rx htr _ _ _ _ => rw [htr]; simp [rdataAfter, validAfter, hd]
  | gap ev r0 r1 rx htr _ _ _ _ => rw [htr]; simp [finished, rdataAfter, validAfter, hd]

/-- A host's program stands while chip-select is asserted (R60), so a transaction leaves it alone. -/
theorem prog_of_transact {r : Request} {s t : State} (hready : hostReady s = true) (henv : s.env.all calm = true)
    (h : transact r s = .next t) : t.prog = s.prog := by
  have htaken := takesRequest_of_hostReady hready r
  rw [transact_of_taken htaken] at h
  refine (runOn_keeps_under (P := fun u => u.prog = s.prog ∧ u.par.requester = .host) (ok := calm)
    (fun u v hp hstop _ hclock => ?_) s.env _ t (onSchedule_of_taken htaken) henv
    ⟨rfl, ((hostReady_iff s).mp hready).1⟩ h).1
  have hw : waiting u = true := by
    have hcs : u.tr.csAsserted = true := by simpa [transactionOver] using hstop
    simp [waiting, hp.2, hcs]
  have hprog : (drive u).prog = s.prog := (drive_prog_of_waiting hw).trans hp.1
  have hhost : (drive u).par.requester = .host := by rw [drive_par]; exact hp.2
  rcases tick_next hclock with ⟨_, rfl⟩ | ⟨_, rfl⟩ <;> exact ⟨hprog, hhost⟩

/-- What a ready host's request leaves alone, complete or as far as the schedule goes. -/
theorem transact_frame {r : Request} {s t : State} (hready : hostReady s = true) (henv : s.env.all calm = true)
    (h : transact r s = .next t) :
    (t.par = s.par ∧ t.sq = s.sq ∧ t.prog = s.prog ∧ t.slot = s.slot ∧ t.attached = s.attached) ∧
    (r.dir = false → t.tr.rdata = s.tr.rdata ∧ t.tr.rdataValid = s.tr.rdataValid) ∧
    ∀ k, (r.dir = false → k ≠ (maskAddr r.addr).toNat) → Memory.read t.peer.mem k = Memory.read s.peer.mem k := by
  obtain ⟨t', ht', hrun, _⟩ := transact_runs (takesRequest_of_hostReady hready r) henv
  obtain rfl : t = t' := by simpa [h] using ht'
  have hsq : t.sq = s.sq :=
    hrun.sq.trans (sequencerNext_of_host (s := present r s) ((hostReady_iff s).mp hready).1)
  exact ⟨⟨hrun.par, hsq, prog_of_transact hready henv h, hrun.slot, hrun.attached⟩, hrun.phase.rdata_of_write,
    fun _ => hrun.phase.memory_read hrun.attached⟩

/-- Settles O31: the four forms are requests, and each clause is a part of a request's frame. -/
theorem requestsLeaveTheRestAlone : Obligations.RequestsLeaveTheRestAlone := by
  intro s t a v c hready henv
  refine ⟨?_, ?_, fun h k hk => (transact_frame hready henv h).2.2 k fun _ => hk, fun h k hk => ?_, ?_⟩
  · rintro (h | h | h | h) <;> exact (transact_frame hready henv h).1
  · rintro (h | h) <;> exact (transact_frame hready henv h).2.1 rfl
  · exact (transact_frame hready henv h).2.2 k fun _ => by rw [maskAddr_append]; exact hk
  · rintro (h | h) k <;> exact (transact_frame hready henv h).2.2 k fun hd => by simp at hd

/-! The payload field of a read (R79). -/

/-- The state with another payload latched. -/
def withWdata (w : Byte) (u : State) : State := { u with tr := { u.tr with wdata := w } }

theorem withWdata_present {s : State} {d : Bool} {a v : Byte}
    (h : ∀ x, takesRequest { dir := d, addr := a, wdata := x } s = true) (w : Byte) :
    advance (present { dir := d, addr := a, wdata := w } s) =
      withWdata w (advance (present { dir := d, addr := a, wdata := v } s)) := by
  have htr := transportNext_of_taken (h w)
  have htr' := transportNext_of_taken (h v)
  have hacc := (accepting_of_taken (h w)).trans (accepting_of_taken (h v)).symm
  have hpeer : peerNext (present { dir := d, addr := a, wdata := w } s) =
      peerNext (present { dir := d, addr := a, wdata := v } s) := by unfold peerNext; rw [hacc]; rfl
  have hev : tickEvents (present { dir := d, addr := a, wdata := w } s) =
      tickEvents (present { dir := d, addr := a, wdata := v } s) := by unfold tickEvents; rw [hacc]; rfl
  unfold withWdata advance
  rw [htr, htr', hpeer, hev]
  rfl

/-- In a read that is not over the direction is latched, and the block is not in `IDLE`. -/
theorem Phase.reading {r : Request} {s u : State} (h : Phase r s u) (hd : r.dir = true)
    (hcs : u.tr.csAsserted = true) : u.tr.dir = true ∧ u.tr.state ≠ .idle := by
  cases h with
  | setup w htr _ _ => rw [htr]; exact ⟨hd, by simp [latched]⟩
  | xfer i k ev ev' back hi htr _ _ _ => rw [htr]; exact ⟨hd, by simp [latched]⟩
  | hold w ev r0 r1 rx htr _ _ _ _ => rw [htr]; exact ⟨hd, by simp [latched]⟩
  | gap ev r0 r1 rx htr _ _ _ _ => rw [htr] at hcs; simp [finished] at hcs

section
variable {u : State} (hd : u.tr.dir = true) (w : Byte)
include hd

/-- A read starts no byte that the payload is in (R71). -/
theorem startByte_withWdata : startByte (withWdata w u) = startByte u := by
  have hf : ∀ i, frameByte (withWdata w u).tr i = frameByte u.tr i := fun i => by
    have hd' : (withWdata w u).tr.dir = true := hd
    unfold frameByte
    rw [hd, hd']
    rfl
  unfold startByte
  rw [hf, hf]
  rfl

theorem advance_withWdata (hs : u.tr.state ≠ .idle) : advance (withWdata w u) = withWdata w (advance u) := by
  have hb := startByte_withWdata hd w
  have hsh : shifterNext (withWdata w u) = shifterNext u := by unfold shifterNext; rw [hb]; rfl
  have hev : tickEvents (withWdata w u) = tickEvents u := by unfold tickEvents; rw [hb]; rfl
  have htr : transportNext (withWdata w u) = { transportNext u with wdata := w } := by
    cases hst : u.tr.state with
    | idle => exact absurd hst hs
    | setup =>
      rw [transportNext_of_setup hst, transportNext_of_setup (s := withWdata w u) hst]
      unfold transportSetup withWdata; split <;> rfl
    | xfer =>
      rw [transportNext_of_xfer hst, transportNext_of_xfer (s := withWdata w u) hst]
      unfold transportXfer keepPayload withWdata; split_ifs <;> rfl
    | hold =>
      rw [transportNext_of_hold hst, transportNext_of_hold (s := withWdata w u) hst]
      unfold transportHold withWdata; split <;> rfl
    | gap =>
      rw [transportNext_of_gap hst, transportNext_of_gap (s := withWdata w u) hst]
      unfold transportGap withWdata; split <;> rfl
  unfold advance
  rw [hsh, hev, htr]
  rfl

end

theorem driveRequest_withWdata (w : Byte) (r : Request) (rest : List Stmt) (u : State) :
    driveRequest r rest (withWdata w u) = withWdata w (driveRequest r rest u) := by
  have hwait : waiting (withWdata w u) = waiting u := rfl
  have hready : (decide ((withWdata w u).tr.state = .idle) && decide ((withWdata w u).par.requester = .host)) =
      (decide (u.tr.state = .idle) && decide (u.par.requester = .host)) := rfl
  unfold driveRequest
  rw [hwait, hready]
  cases waiting u <;> cases decide (u.tr.state = .idle) && decide (u.par.requester = .host) <;> rfl

/-- The program does not look at the latch. -/
theorem drive_withWdata (w : Byte) (u : State) : drive (withWdata w u) = withWdata w (drive u) := by
  have hprog : (withWdata w u).prog = u.prog := rfl
  have hrst : (withWdata w u).inp.rst = u.inp.rst := rfl
  have hwait : waiting (withWdata w u) = waiting u := rfl
  have hblock : blocked (withWdata w u) = blocked u := rfl
  unfold drive
  rw [hprog, hrst]
  cases u.inp.rst with
  | true => rfl
  | false =>
    cases u.prog with
    | nil => simp only [hblock]; cases blocked u <;> rfl
    | cons st rest =>
      cases st with
      | wr a v => exact driveRequest_withWdata w _ rest u
      | rd a => exact driveRequest_withWdata w _ rest u
      | init => simp only [hwait]; cases waiting u <;> rfl
      | idle => simp only [hwait]; cases waiting u <;> rfl

/-- The run of a read with another payload latched is the same run (R79). -/
theorem runOn_withWdata (w : Byte) {r : Request} {s : State} (hd : r.dir = true)
    (hq : Waits (sequencerNext (present r s)) s.par) : ∀ (fuel : List Inputs) (u t : State), OnSchedule fuel u →
      fuel.all calm = true → TransactionRun r s u → runOn transactionOver fuel u = .next t →
      runOn transactionOver fuel (withWdata w u) = .next (withWdata w t) := by
  intro fuel
  induction fuel with
  | nil => intro u t _ _ _ h; obtain rfl : u = t := by simpa [runOn] using h
           rfl
  | cons i rest ih =>
    intro u t hs hok hrun h
    obtain ⟨hi, hrest⟩ : calm i = true ∧ rest.all calm = true := by simpa using hok
    have hover : transactionOver (withWdata w u) = transactionOver u := rfl
    cases hstop : transactionOver u with
    | true =>
      obtain rfl : u = t := by simpa [runOn, hstop] using h
      simp [runOn, hover, hstop]
    | false =>
      have hu : undisturbed u = true := undisturbed_of_calm hrun.inv hrun.peerUndefined (hs.1 ▸ hi)
      have hclock := clock_of_undisturbed hu
      have hcs : (drive u).tr.csAsserted = true := by rw [drive_tr]; simpa [transactionOver] using hstop
      have hrun' := (transactionRun_advance hq (transactionRun_drive hrun) (by rw [drive_undisturbed, hu]) hcs).1
      obtain ⟨hdir, hbusy⟩ := (transactionRun_drive hrun).phase.reading hd hcs
      have hclock' : clock (withWdata w u) = .next (withWdata w (advance (drive u))) := by
        rw [← advance_withWdata hdir w hbusy, ← drive_withWdata]
        exact clock_of_undisturbed (s := withWdata w u) hu
      have hnext : runOn transactionOver rest (advance (drive u)) = .next t := by
        simpa [runOn, hstop, hclock] using h
      simpa [runOn, hover, hstop, hclock'] using ih _ t (onSchedule_clock hs hclock) hrest hrun' hnext

/-- Settles O30: after the acceptance the two reads differ in the latch, and a read's run does not look at it. -/
theorem readPayloadFieldHasNoEffect : Obligations.ReadPayloadFieldHasNoEffect := by
  intro a v w s t hready henv h
  have htaken : ∀ x, takesRequest { dir := true, addr := a, wdata := x } s = true := fun _ =>
    takesRequest_of_hostReady hready _
  have hrun := (transact_of_taken (htaken v)).symm.trans h
  refine (transact_of_taken (htaken w)).trans ?_
  rw [withWdata_present htaken w]
  exact runOn_withWdata w rfl (waits_of_taken (htaken v)) s.env _ t (onSchedule_of_taken (htaken v)) henv
    (transactionRun_start (htaken v)) hrun

end Sys2Proof.Machine
end

section
/-! The initialization (R93, R94): from the launch state, over the settle delay and the two writes, to `PARKED`; stage by
stage, each with its count of ticks. -/

namespace Sys2Proof.Machine

/-! Windows and frames of a trace put together from windows (R59). -/

/-- An open window takes in events up to its `CsDeassert`. -/
theorem windowsFrom_of_unselecting {ev : List BusEvent} (h : unselecting ev = true) (cur rest : List BusEvent) :
    windowsFrom (some cur) (ev ++ .csDeassert :: rest) =
      { events := cur.reverse ++ ev, closed := true } :: windowsFrom none rest := by
  induction ev generalizing cur with
  | nil => simp [windowsFrom]
  | cons e l ih =>
    have hl : unselecting l = true := by
      rw [← List.singleton_append, unselecting_append] at h
      exact (Bool.and_eq_true_iff.mp h).2
    cases e with
    | csAssert => simp [unselecting] at h
    | csDeassert => simp [unselecting] at h
    | edge k c d => simp [windowsFrom, ih hl]
    | sampled k b => simp [windowsFrom, ih hl]

/-- One window of a transaction, closed. -/
def closedWindow (ev : List BusEvent) : List BusEvent := [.csAssert] ++ ev ++ [.csDeassert]

theorem windows_closedWindow_append {ev : List BusEvent} (h : unselecting ev = true) (rest : List BusEvent) :
    windows (closedWindow ev ++ rest) = { events := ev, closed := true } :: windows rest := by
  have hsplit : closedWindow ev ++ rest = .csAssert :: (ev ++ .csDeassert :: rest) := by simp [closedWindow]
  rw [windows, hsplit, windowsFrom, windowsFrom_of_unselecting h]
  rfl

/-- Two transactions on an empty trace are two windows with their frames. -/
theorem frames_of_two {c : Bool} {ev fv : List BusEvent} {out back out' back' : List Byte}
    (h : Carried c ev out back) (h' : Carried c fv out' back') :
    (windows (closedWindow ev ++ closedWindow fv)).length = 2 ∧
      frames c (closedWindow ev ++ closedWindow fv) = [out, out'] := by
  have hw : windows (closedWindow ev ++ closedWindow fv) =
      [{ events := ev, closed := true }, { events := fv, closed := true }] := by
    rw [windows_closedWindow_append h.1, ← List.append_nil (closedWindow fv), windows_closedWindow_append h'.1]
    rfl
  obtain ⟨_, _, hs, _⟩ := h
  obtain ⟨_, _, hs', _⟩ := h'
  rw [frames, hw]
  exact ⟨rfl, by simp [hs, hs']⟩

/-! Stages. -/

/-- A run of a build with the sequencer, at the inputs `fuel`, each calm and with a strobe. -/
structure Underway (p : Params) (fuel : List Inputs) (u : State) : Prop where
  sched : OnSchedule fuel u
  strobing : fuel.all (fun j => calm j && j.edgeTick) = true
  inv : invariants u = true
  par : u.par = p

/-- The block can write: the sequencer has a request on the port, and the transport is ready (R89). -/
structure ReadyToWrite (second : Bool) (trace : List BusEvent) (u : State) : Prop where
  state : u.sq.state = .configuring
  issued : u.sq.issued = false
  step : u.sq.step = second
  idle : u.tr.state = .idle
  trace : u.trace = trace

/-- The write's `done` is seen: the sequencer goes on in this tick (R91). -/
structure Written (second : Bool) (trace : List BusEvent) (u : State) : Prop where
  state : u.sq.state = .configuring
  issued : u.sq.issued = true
  step : u.sq.step = second
  gap : u.tr.state = .gap
  wait : u.tr.wait = u.par.csIdle
  done : u.tr.done = true
  trace : u.trace = trace

/-- One stage after another. -/
theorem runTicks_trans {m n : Nat} {u v w : State} (h : runTicks m u = .next v) (h' : runTicks n v = .next w) :
    runTicks (m + n) u = .next w := by
  rw [runTicks_add, h]; exact h'

theorem calm_of_strobing {fuel : List Inputs} (h : fuel.all (fun j => calm j && j.edgeTick) = true) :
    fuel.all calm = true := by
  simp only [List.all_eq_true, Bool.and_eq_true] at h ⊢
  exact fun j hj => (h j hj).1

theorem all_drop {f : Inputs → Bool} {l : List Inputs} (h : l.all f = true) (n : Nat) : (l.drop n).all f = true := by
  simp only [List.all_eq_true] at h ⊢
  exact fun j hj => h j (List.mem_of_mem_drop hj)

/-- With the shifter stopped, calm inputs disturb nothing. -/
theorem undisturbed_of_stopped {u : State} (hinv : invariants u = true) (hx : u.tr.state ≠ .xfer)
    (hcalm : calm u.inp = true) : undisturbed u = true :=
  undisturbed_of_calm hinv (peerUndefined_of_not_sampling (sampling_of_not_edge (edgeFires_of_stopped
    (run_eq_false_of_not_xfer ((invariants_iff_consistent u).mp hinv).2.1 hx)))) hcalm

/-! The settle delay (R87). -/

/-- `n` ticks before the sequencer of a build `p` begins to configure, with nothing on the bus yet. -/
structure Settling (p : Params) (n : Nat) (u : State) : Prop where
  inv : invariants u = true
  par : u.par = p
  idle : u.tr.state = .idle
  trace : u.trace = []
  sq : if n = 0 then u.sq.state = .configuring ∧ u.sq.issued = false ∧ u.sq.step = false
    else u.sq.state = .unconfigured ∧ u.sq.armed = true ∧ u.sq.settle + n = p.settleDelay + 1

theorem settling_clock {p : Params} (hp : p.requester = .sequencer) {n : Nat} {u : State} (h : Settling p (n + 1) u)
    (hcalm : calm u.inp = true) : ∃ t, clock u = .next t ∧ Settling p n t := by
  obtain ⟨hinv, hpar, hidle, htrace, hsq⟩ := h
  obtain ⟨hs, ha, hset⟩ := (if_neg (Nat.succ_ne_zero n)).mp hsq
  have hu := undisturbed_of_stopped hinv (by simp [hidle]) hcalm
  have hp' : (drive u).par.requester = .sequencer := by rw [drive_par, hpar, hp]
  have hs' : (drive u).sq.state = .unconfigured := by rw [drive_sq, hs]
  have ha' : (drive u).sq.armed = true := by rw [drive_sq, ha]
  have hready : (drive u).inp.pinsReady = true := by rw [drive_pinsReady]; exact ((calm_iff _).mp hcalm).2.1
  obtain ⟨htr, _, htrace'⟩ := advance_of_unrequested (s := drive u) (by rw [drive_undisturbed, hu])
    (by rw [drive_tr, hidle]) (portValid_of_not_configuring hp' (by rw [hs']; decide))
  refine ⟨_, clock_of_undisturbed hu, invariants_advance (by rw [invariants_drive, hinv]), (drive_par u).trans hpar,
    by rw [htr, drive_tr, hidle], by rw [htrace', drive_trace, htrace], ?_⟩
  rw [advance_sq, sequencerNext_of_unconfigured hp' hs']
  rcases Nat.eq_zero_or_pos n with rfl | hn
  · rw [if_pos rfl, sequencerUnconfigured_of_settled ha' hready (by rw [drive_par, drive_sq, hpar]; omega)]
    exact ⟨rfl, rfl, rfl⟩
  · rw [if_neg (Nat.ne_of_gt hn), sequencerUnconfigured_of_settling ha' hready (by rw [drive_par, drive_sq, hpar]; omega)]
    refine ⟨hs', ha', ?_⟩
    rw [drive_sq]
    change u.sq.settle + 1 + n = _
    omega

/-- From the armed sequencer to its first request: the delay and one tick more (R87). -/
theorem settle_stage {p : Params} (hp : p.requester = .sequencer) {fuel : List Inputs} {u : State}
    (hw : Underway p fuel u) (h : Settling p (p.settleDelay + 1) u) (hlen : p.settleDelay + 1 ≤ fuel.length) :
    ∃ v, runTicks (p.settleDelay + 1) u = .next v ∧ Underway p (fuel.drop (p.settleDelay + 1)) v ∧
      ReadyToWrite false [] v := by
  obtain ⟨v, hv, hset, hsched⟩ := runTicks_reaches (P := Settling p) (ok := calm)
    (fun _ _ hs hok => settling_clock hp hs hok) (p.settleDelay + 1) 0 fuel u hw.sched (calm_of_strobing hw.strobing) hlen
    (by rwa [Nat.zero_add])
  obtain ⟨hinv, hpar, hidle, htrace, hsq⟩ := hset
  obtain ⟨hs, hi, hstep⟩ := (if_pos rfl).mp hsq
  exact ⟨v, hv, ⟨hsched, all_drop hw.strobing _, hinv, hpar⟩, hs, hi, hstep, hidle, htrace⟩

/-! A write (R72, R78, R84, R90). -/

/-- The sequencer's request is accepted in this tick. -/
theorem takesRequest_of_ready {second : Bool} {trace : List BusEvent} {u : State} (hp : u.par.requester = .sequencer)
    (h : ReadyToWrite second trace u) (hu : undisturbed u = true) : takesRequest (sequencerRequest u.sq) u = true :=
  (takesRequest_iff _ _).mpr ⟨h.idle, hu,
    .inr ⟨(portValid_iff_of_sequencer hp).mpr ⟨h.state, h.issued⟩, portRequest_of_sequencer hp⟩⟩

/-- In a build with the sequencer an accepted transaction is run by the ticks alone. -/
theorem runTicks_of_taken {r : Request} {u : State} (hp : u.par.requester = .sequencer)
    (h : takesRequest r u = true) (henv : u.env.all (fun i => calm i && i.edgeTick) = true)
    (hlen : 53 + u.par.csSetup + u.par.csHold ≤ u.env.length) :
    ∃ v t, tick u = .next v ∧ runTicks (53 + u.par.csSetup + u.par.csHold) v = .next t ∧ TransactionRun r u t ∧
      transactionOver t = true ∧ OnSchedule (u.env.drop (53 + u.par.csSetup + u.par.csHold)) t := by
  obtain ⟨t, ht, hrun, hover, hnow⟩ := transact_counts h henv hlen
  rw [transact_of_taken h] at ht
  obtain ⟨n, hn, hticks, hsched⟩ := runTicks_of_runOn u.env _ t (onSchedule_of_taken h) ht
  rw [advance_now, present_now] at hn
  obtain rfl : n = 53 + u.par.csSetup + u.par.csHold := by omega
  exact ⟨_, t, (sequencerBuildHasNoRequestPins u r hp).symm.trans (tick_of_taken h), hticks, hrun, hover, hsched⟩

/-- From the request of a write to its `done`. -/
theorem write_stage {p : Params} (hp : p.requester = .sequencer) {fuel : List Inputs} {second : Bool}
    {trace : List BusEvent} {u : State} (hw : Underway p fuel u) (h : ReadyToWrite second trace u)
    (hlen : 54 + p.csSetup + p.csHold ≤ fuel.length) :
    ∃ v ev back, runTicks (54 + p.csSetup + p.csHold) u = .next v ∧
      Underway p (fuel.drop (54 + p.csSetup + p.csHold)) v ∧ Written second (trace ++ closedWindow ev) v ∧
      Carried p.cpha ev (frame (sequencerRequest u.sq)) back := by
  obtain ⟨hsched, hstrobing, hinv, hpar⟩ := hw
  cases fuel with
  | nil => simp at hlen
  | cons i rest =>
    obtain ⟨⟨hi, _⟩, hrest⟩ : (calm i = true ∧ i.edgeTick = true) ∧ rest.all (fun j => calm j && j.edgeTick) = true := by
      simpa using hstrobing
    have henv : (drive u).env = rest := (drive_env u).trans hsched.2
    have hp' : (drive u).par.requester = .sequencer := by rw [drive_par, hpar, hp]
    have hu : undisturbed (drive u) = true := by
      rw [drive_undisturbed, undisturbed_of_stopped hinv (by simp [h.idle]) (hsched.1 ▸ hi)]
    have hready : ReadyToWrite second trace (drive u) :=
      ⟨by rw [drive_sq, h.state], by rw [drive_sq, h.issued], by rw [drive_sq, h.step], by rw [drive_tr, h.idle],
        by rw [drive_trace, h.trace]⟩
    have htaken := takesRequest_of_ready hp' hready hu
    rw [drive_sq] at htaken
    obtain ⟨v, t, hv, ht, hrun, hover, hsched'⟩ := runTicks_of_taken hp' htaken (by rwa [henv])
      (by rw [henv, drive_par, hpar]; rw [List.length_cons] at hlen; omega)
    rw [drive_par, hpar] at ht hsched'
    rw [henv] at hsched'
    obtain ⟨r0, r1, rx, ⟨⟨ev, htrace, hcarried⟩, htr, _⟩, _⟩ := hrun.transacted hover
    have hsq : t.sq = { u.sq with issued := true } := by
      rw [hrun.sq, sequencerNext_of_configuring (s := present _ (drive u)) hp' hready.state,
        sequencerConfiguring_of_accepted (s := present _ (drive u)) hready.issued hready.idle, present_sq, drive_sq]
    have hn : 54 + p.csSetup + p.csHold = (53 + p.csSetup + p.csHold) + 1 := by omega
    refine ⟨t, ev, [r0, r1, rx], ?_, ⟨?_, all_drop hstrobing _, hrun.inv, ?_⟩, ?_, ?_⟩
    · have hclock : clock u = .next v := hv
      rw [hn, runTicks, hclock]; exact ht
    · rw [hn, List.drop_succ_cons]; exact hsched'
    · rw [hrun.par, drive_par, hpar]
    · exact ⟨by rw [hsq]; exact h.state, by rw [hsq], by rw [hsq]; exact h.step, by rw [htr]; rfl,
        by rw [htr, hrun.par]; rfl, by rw [htr]; rfl, by rw [htrace, drive_trace, h.trace]; rfl⟩
    · rw [drive_par, hpar] at hcarried; exact hcarried

/-! The tick that sees `done`, and `GAP` (R76, R91). -/

/-- The tick that sees the `done` of a write. -/
theorem written_clock {second : Bool} {trace : List BusEvent} {u : State} (hp : u.par.requester = .sequencer)
    (hinv : invariants u = true) (h : Written second trace u) (hcalm : calm u.inp = true) :
    ∃ t, clock u = .next t ∧ InGap u u.par.csIdle t ∧ t.par = u.par ∧
      t.sq = if second then { u.sq with state := .parked, issued := false }
        else { u.sq with step := true, issued := false } := by
  have hu := undisturbed_of_stopped hinv (by simp [h.gap]) hcalm
  have hgap : InGap u (u.par.csIdle + 1) u := ⟨hinv, rfl, by simp [h.gap, h.wait]⟩
  have hs : (drive u).sq.state = .configuring := by rw [drive_sq, h.state]
  have hi : (drive u).sq.issued = true := by rw [drive_sq, h.issued]
  have hd : (drive u).tr.done = true := by rw [drive_tr, h.done]
  refine ⟨_, clock_of_undisturbed hu, inGap_advance (inGap_drive hgap) (by rw [drive_undisturbed, hu]), drive_par u, ?_⟩
  rw [advance_sq, sequencerNext_of_configuring (by rw [drive_par, hp]) hs]
  cases second with
  | false => rw [sequencerConfiguring_of_first_done hi hd (by rw [drive_sq, h.step]), drive_sq]; rfl
  | true => rw [sequencerConfiguring_of_second_done hi hd (by rw [drive_sq, h.step]), drive_sq]; rfl

/-- In `GAP` after the first write, `n` ticks before `IDLE`. -/
structure BetweenWrites (s : State) (n : Nat) (u : State) : Prop where
  gap : InGap s n u
  par : u.par = s.par
  state : u.sq.state = .configuring
  issued : u.sq.issued = false
  step : u.sq.step = true

/-- The sequencer waits for `IDLE` with its second request on the port (R90). -/
theorem betweenWrites_clock {s u : State} (hp : s.par.requester = .sequencer) {n : Nat} (h : BetweenWrites s (n + 1) u)
    (hcalm : calm u.inp = true) : ∃ t, clock u = .next t ∧ BetweenWrites s n t := by
  obtain ⟨hgap, hpar, hs, hi, hstep⟩ := h
  have hst : u.tr.state = .gap := ((if_neg (Nat.succ_ne_zero n)).mp hgap.2.2).1
  have hu := undisturbed_of_stopped hgap.1 (by simp [hst]) hcalm
  have hsq : sequencerNext (drive u) = u.sq := by
    rw [sequencerNext_of_configuring (by rw [drive_par, hpar, hp]) (by rw [drive_sq, hs]),
      sequencerConfiguring_of_unaccepted (by rw [drive_sq, hi]) (by rw [drive_tr, hst]; simp), drive_sq]
  exact ⟨_, clock_of_undisturbed hu, inGap_advance (inGap_drive hgap) (by rw [drive_undisturbed, hu]),
    (drive_par u).trans hpar, by rw [advance_sq, hsq, hs], by rw [advance_sq, hsq, hi], by rw [advance_sq, hsq, hstep]⟩

/-- From the `done` of the first write to the second request in `IDLE`: `P_CS_IDLE + 1` ticks (R76). -/
theorem gap_stage {p : Params} (hp : p.requester = .sequencer) {fuel : List Inputs} {trace : List BusEvent} {u : State}
    (hw : Underway p fuel u) (h : Written false trace u) (hlen : p.csIdle + 1 ≤ fuel.length) :
    ∃ v, runTicks (p.csIdle + 1) u = .next v ∧ Underway p (fuel.drop (p.csIdle + 1)) v ∧ ReadyToWrite true trace v := by
  obtain ⟨hsched, hstrobing, hinv, hpar⟩ := hw
  have hp' : u.par.requester = .sequencer := by rw [hpar, hp]
  cases fuel with
  | nil => simp at hlen
  | cons i rest =>
    obtain ⟨hi, hrest⟩ : calm i = true ∧ rest.all calm = true := by simpa using calm_of_strobing hstrobing
    obtain ⟨t, ht, hgap, htpar, hsq⟩ := written_clock hp' hinv h (hsched.1 ▸ hi)
    rw [if_neg (by simp)] at hsq
    have hbetween : BetweenWrites u (0 + p.csIdle) t :=
      ⟨by rwa [Nat.zero_add, ← hpar], htpar, by rw [hsq]; exact h.state, by rw [hsq], by rw [hsq]⟩
    obtain ⟨v, hv, ⟨⟨hvinv, hvtrace, hvidle⟩, hvpar, hvs, hvi, hvstep⟩, hvsched⟩ :=
      runTicks_reaches (P := BetweenWrites u) (ok := calm) (fun _ _ hb hok => betweenWrites_clock hp' hb hok)
        p.csIdle 0 rest t (onSchedule_clock hsched ht) hrest (by simpa using hlen) hbetween
    refine ⟨v, by rw [runTicks, ht]; exact hv, ⟨by rw [List.drop_succ_cons]; exact hvsched, all_drop hstrobing _, hvinv,
      hvpar.trans hpar⟩, hvs, hvi, hvstep, (if_pos rfl).mp hvidle, hvtrace.trans h.trace⟩

/-- The tick that sees the `done` of the second write parks the sequencer (R91). -/
theorem park_stage {p : Params} (hp : p.requester = .sequencer) {fuel : List Inputs} {trace : List BusEvent} {u : State}
    (hw : Underway p fuel u) (h : Written true trace u) (hlen : 1 ≤ fuel.length) :
    ∃ v, runTicks 1 u = .next v ∧ v.sq.state = .parked ∧ v.trace = trace := by
  obtain ⟨hsched, hstrobing, hinv, hpar⟩ := hw
  cases fuel with
  | nil => simp at hlen
  | cons i rest =>
    obtain ⟨hi, _⟩ : calm i = true ∧ rest.all calm = true := by simpa using calm_of_strobing hstrobing
    obtain ⟨t, ht, hgap, _, hsq⟩ := written_clock (by rw [hpar, hp]) hinv h (hsched.1 ▸ hi)
    exact ⟨t, by rw [runTicks, ht]; rfl, by rw [hsq]; rfl, hgap.2.1.trans h.trace⟩

/-! The launch (R86, R108). -/

/-- The first tick, with `init_go`, arms the sequencer. -/
theorem launch_clock {p : Params} (hp : p.requester = .sequencer) (d : ResetDraw) {i : Inputs} (hgo : i.initGo = true)
    (hcalm : calm i = true) (env : List Inputs) :
    ∃ t, clock { State.launch p d i with env := env } = .next t ∧ Settling p (p.settleDelay + 1) t := by
  have hinv : invariants { State.launch p d i with env := env } = true :=
    (launchStateIsTheResetTable p d i).1
  have hd : drive { State.launch p d i with env := env } = { State.launch p d i with env := env } := by
    simp [drive, State.launch, blocked, hp]
  have hu : undisturbed { State.launch p d i with env := env } = true :=
    undisturbed_of_stopped hinv (by simp [State.launch]) hcalm
  have hsq : sequencerNext { State.launch p d i with env := env } = { Sequencer.afterReset with armed := true } := by
    rw [sequencerNext_of_unconfigured hp rfl, sequencerUnconfigured]
    simp [State.launch, Sequencer.afterReset, hgo]
  have hclock := clock_of_undisturbed hu
  rw [hd] at hclock
  obtain ⟨htr, _, htrace⟩ := advance_of_unrequested hu rfl (portValid_of_not_configuring hp (by simp [State.launch]))
  refine ⟨_, hclock, invariants_advance hinv, rfl, by rw [htr]; rfl, htrace, ?_⟩
  rw [if_neg (Nat.succ_ne_zero _), advance_sq, hsq]
  exact ⟨rfl, rfl, Nat.zero_add _⟩

/-- The two writes, hardwired (R88). -/
theorem frame_sequencerRequest (q : Sequencer) : frame (sequencerRequest q) =
    if q.step then [0x02#8, 0xFF#8, 0x02#8] else [0x03#8, 0xFF#8, 0x14#8] := by
  cases hq : q.step with
  | false => rw [sequencerRequest_of_first hq]; decide
  | true => rw [sequencerRequest_of_second hq]; decide

/-- Settles O43: the stages one after another, and the two windows they leave on the trace. -/
theorem initializationWritesTwiceThenParks : Obligations.InitializationWritesTwiceThenParks := by
  intro p d i env hp hgo hcalm henv hlen
  obtain ⟨t0, h0, hsettling⟩ := launch_clock hp d hgo hcalm env
  have hw0 : Underway p env t0 := ⟨onSchedule_clock (onSchedule_self _) h0, henv, hsettling.inv, hsettling.par⟩
  obtain ⟨t1, h1, hw1, hready1⟩ := settle_stage hp hw0 hsettling (by omega)
  obtain ⟨t2, ev, back, h2, hw2, hwritten2, hcarried2⟩ := write_stage hp hw1 hready1 (by rw [List.length_drop]; omega)
  obtain ⟨t3, h3, hw3, hready3⟩ := gap_stage hp hw2 hwritten2 (by simp only [List.length_drop]; omega)
  obtain ⟨t4, fv, back', h4, hw4, hwritten4, hcarried4⟩ :=
    write_stage hp hw3 hready3 (by simp only [List.length_drop]; omega)
  obtain ⟨t5, h5, hparked, htrace⟩ := park_stage hp hw4 hwritten4 (by simp only [List.length_drop]; omega)
  have hrun := runTicks_trans (runTicks_trans (runTicks_trans (runTicks_trans h1 h2) h3) h4) h5
  have hfirst : runTicks 1 { State.launch p d i with env := env } = .next t0 := by rw [runTicks, h0]; rfl
  rw [frame_sequencerRequest, hready1.step] at hcarried2
  rw [frame_sequencerRequest, hready3.step] at hcarried4
  obtain ⟨hwindows, hframes⟩ := frames_of_two hcarried2 hcarried4
  rw [List.nil_append] at htrace
  refine ⟨t5, ?_, hparked, by rw [htrace, hframes]; rfl, by rw [htrace, hwindows]⟩
  rw [← runTicks_trans hfirst hrun]
  congr 1
  omega

end Sys2Proof.Machine
end
